-- ==== Sys2Proof/Word.lean ====
section
/-! DEFINITION. The word types: a byte of the 1-Wire line and a 32-bit register word (00_scope.md R10, R14). -/

namespace Sys2Proof

/-- A byte: DATA, CRC, one byte of an address or of the scratchpad (00_scope.md R10). -/
abbrev Byte := BitVec 8

/-- A 32-bit register or command word (00_scope.md R10). -/
abbrev Word := BitVec 32

end Sys2Proof
end

