-- ==== Sys2Proof/Config.lean ====
section
/-! DEFINITION. What an implementation fixes (the parameters of 00_scope.md R5, R8, R9, R11, R12, R13) and the free
values, which the spec leaves open (00_scope.md R7, 20_memory.md R64). The default values are in
Machine/Defaults.lean. -/

namespace Sys2Proof

/-- SEARCH_PAIR_MAP (00_scope.md R11, 42_search.md R114). -/
inductive SearchPairMap where
  /-- (0,0) is a discrepancy, (1,1) is no response: the default. -/
  | wiredAnd
  /-- The source's literal table: (0,0) is no response, (1,1) is a discrepancy. -/
  | asTabulated
  deriving DecidableEq, Repr

/-- One row of the resolution table (00_scope.md R12). -/
structure ResRow where
  /-- The whole config byte `SP[4]` that selects the row. -/
  pattern : Byte
  /-- The RES code. -/
  code : BitVec 2
  /-- The resolution in bits. -/
  bits : Nat
  /-- The divisor of the consumer's temperature (44_scratchpad.md R134). -/
  divisor : Nat
  /-- The maximum conversion time in milliseconds (70_reset_and_hazards.md R170). -/
  maxMs : Nat
  deriving DecidableEq, Repr

/-- The parameters of the block; durations are in ticks. -/
structure Config where
  /-- CLK_PER_US, the clock cycles of a tick (00_scope.md R5, OPEN). -/
  clkPerUs : Nat
  tWaitHighMax : Nat
  tRstl : Nat
  tPdwin : Nat
  tW1l : Nat
  tW0l : Nat
  tWslot : Nat
  tRec : Nat
  tRl : Nat
  tRs : Nat
  tRslot : Nat
  cmdMatchRom : Byte
  cmdSearchRom : Byte
  cmdReadScratchpad : Byte
  cmdConvertT : Byte
  /-- FAMILY_CODE; no rule of the block uses it (00_scope.md R13). -/
  familyCode : Byte
  searchPairMap : SearchPairMap
  resTable : List ResRow
  deriving DecidableEq, Repr

/-- The level of `line_in` on a clock edge that no listed event gives (00_scope.md R7): a free value. -/
opaque Config.freeLine : Nat → Bool

/-- The word a host read of a result register gives while BUSY (20_memory.md R64): a free value. -/
opaque Config.freeWord : Nat → Word

end Sys2Proof
end

