-- ==== Sys2Proof/Syntax.lean ====
section
/-! DEFINITION. The 14 commands (30_encoding.md R72), one constructor for each row of the opcode table, and the
assembler's lines and pseudo-commands (30_encoding.md R77, R78).

Every command carries the word's DATA byte, because CMD_DATA latches it for every accepted word
(60_exceptions.md R146); the commands without an operand ignore it (30_encoding.md R71). -/

namespace Sys2Proof

/-- A legal command word, decoded. -/
inductive Instr where
  | reset (data : Byte)
  | writeBit (data : Byte)
  | readBit (data : Byte)
  | writeByte (data : Byte)
  | readByte (data : Byte)
  | matchAddress (data : Byte)
  | sendCommand (data : Byte)
  | searchFirst (data : Byte)
  | crcClear (data : Byte)
  | crcFeed (data : Byte)
  | crcCheck (data : Byte)
  | checkAddr (data : Byte)
  | readScratchpad (data : Byte)
  | readSensor (data : Byte)
  deriving DecidableEq, Repr

/-- A line of the host-side assembler (30_encoding.md R77); operands are the numbers as written. -/
inductive AsmLine where
  | reset
  | writeBit (imm : Nat)
  | readBit
  | writeByte (imm : Nat)
  | readByte
  | matchAddress
  | sendCommand (imm : Nat)
  | searchFirst
  | crcClear
  | crcFeed (imm : Nat)
  | crcCheck
  | checkAddr
  | readScratchpad
  | readSensor
  /-- `WR off, value`: one host write. -/
  | wr (off value : Nat)
  /-- `RD off`: one host read. -/
  | rd (off : Nat)
  /-- `WAIT`: poll STATUS until BUSY = 0. -/
  | wait
  deriving DecidableEq, Repr

/-- A pseudo-command (30_encoding.md R78). -/
inductive Pseudo where
  | convertT
  | checkCrc8 (data : List Nat)
  | setAddr (a : Nat)
  | writeBytes (data : List Nat)
  deriving DecidableEq, Repr

end Sys2Proof
end

