-- ==== Sys2Proof/WellFormed.lean ====
section
/-! DEFINITION. The checks: parameter ranges (00_scope.md R8), operands of assembler lines and pseudo-commands
(30_encoding.md R77), and the canonical form of an instruction (the form the assembler writes). Every value of `Instr`
is a legal command: its DATA byte may be anything (30_encoding.md R71). -/

namespace Sys2Proof

/-- The ranges of 00_scope.md R8 and R5. A parameter the rule only lets grow is bounded below by its default. -/
def Config.inRange (c : Config) : Bool :=
  decide (1 ≤ c.clkPerUs) && decide (250 ≤ c.tWaitHighMax) && decide (480 ≤ c.tRstl) && decide (504 ≤ c.tPdwin)
    && decide (1 ≤ c.tW1l) && decide (c.tW1l ≤ 15) && decide (60 ≤ c.tW0l) && decide (c.tW0l ≤ c.tWslot)
    && decide (80 ≤ c.tWslot) && decide (1 ≤ c.tRec) && decide (1 ≤ c.tRl) && decide (c.tRl + c.tRs ≤ 15)
    && decide (c.tRl + c.tRs + 1 ≤ c.tRslot)

/-- An operand out of range is an assembly error (30_encoding.md R77). -/
def AsmLine.wellFormed : AsmLine → Bool
  | .writeBit imm => decide (imm ≤ 1)
  | .writeByte imm => decide (imm ≤ 255)
  | .sendCommand imm => decide (imm ≤ 255)
  | .crcFeed imm => decide (imm ≤ 255)
  | .wr off value => decide (off ≤ 0x3F) && decide (value < 2 ^ 32)
  | .rd off => decide (off ≤ 0x3F)
  | .reset => true
  | .readBit => true
  | .readByte => true
  | .matchAddress => true
  | .searchFirst => true
  | .crcClear => true
  | .crcCheck => true
  | .checkAddr => true
  | .readScratchpad => true
  | .readSensor => true
  | .wait => true

/-- The bytes of a pseudo-command are bytes and the address has 64 bits (30_encoding.md R78). -/
def Pseudo.wellFormed : Pseudo → Bool
  | .convertT => true
  | .checkCrc8 data => data.all fun b => decide (b ≤ 255)
  | .setAddr a => decide (a < 2 ^ 64)
  | .writeBytes data => data.all fun b => decide (b ≤ 255)

/-- The form the assembler writes: DATA is 0 where it is no operand, and 0 or 1 for WRITE_BIT (30_encoding.md R77). -/
def Instr.canonical : Instr → Bool
  | .reset d => d == 0
  | .writeBit d => decide (d.toNat ≤ 1)
  | .readBit d => d == 0
  | .writeByte _ => true
  | .readByte d => d == 0
  | .matchAddress d => d == 0
  | .sendCommand _ => true
  | .searchFirst d => d == 0
  | .crcClear d => d == 0
  | .crcFeed _ => true
  | .crcCheck d => d == 0
  | .checkAddr d => d == 0
  | .readScratchpad d => d == 0
  | .readSensor d => d == 0

end Sys2Proof
end

