-- ==== Sys2Proof/Decode.lean ====
section
/-! DEFINITION. The decoder, total on all 32-bit words (30_encoding.md R70 to R76), the encoder from the same table, and
the assembler (30_encoding.md R77, R78). -/

namespace Sys2Proof

/-- Why a word is no command (30_encoding.md R73, R74). -/
inductive DecodeError where
  /-- A bit of RSV0 (7:4) or of RSV1 (31:16) is set. -/
  | reservedBits
  /-- OP is 0x0 or 0xF. -/
  | reservedOpcode
  deriving DecidableEq, Repr

/-- The field OP of a word (30_encoding.md R70). -/
def opField (w : Word) : BitVec 4 := w.extractLsb' 0 4

/-- The field RSV0. -/
def rsv0Field (w : Word) : BitVec 4 := w.extractLsb' 4 4

/-- The field DATA. -/
def dataField (w : Word) : Byte := w.extractLsb' 8 8

/-- The field RSV1. -/
def rsv1Field (w : Word) : BitVec 16 := w.extractLsb' 16 16

/-- The opcode map (30_encoding.md R72): the command of an opcode, given the word's DATA byte. -/
def decodeOp (op : BitVec 4) (d : Byte) : Except DecodeError Instr :=
  match op.toNat with
  | 1 => .ok (.reset d)
  | 2 => .ok (.writeBit d)
  | 3 => .ok (.readBit d)
  | 4 => .ok (.writeByte d)
  | 5 => .ok (.readByte d)
  | 6 => .ok (.matchAddress d)
  | 7 => .ok (.sendCommand d)
  | 8 => .ok (.searchFirst d)
  | 9 => .ok (.crcClear d)
  | 10 => .ok (.crcFeed d)
  | 11 => .ok (.crcCheck d)
  | 12 => .ok (.checkAddr d)
  | 13 => .ok (.readScratchpad d)
  | 14 => .ok (.readSensor d)
  | _ => .error .reservedOpcode

/-- Decoding (30_encoding.md R75): the reserved bits first, then the opcode. -/
def decode (w : Word) : Except DecodeError Instr :=
  if rsv1Field w != 0 || rsv0Field w != 0 then .error .reservedBits
  else decodeOp (opField w) (dataField w)

/-- The opcode of a command (30_encoding.md R72). -/
def Instr.opcode : Instr → BitVec 4
  | .reset _ => 0x1
  | .writeBit _ => 0x2
  | .readBit _ => 0x3
  | .writeByte _ => 0x4
  | .readByte _ => 0x5
  | .matchAddress _ => 0x6
  | .sendCommand _ => 0x7
  | .searchFirst _ => 0x8
  | .crcClear _ => 0x9
  | .crcFeed _ => 0xA
  | .crcCheck _ => 0xB
  | .checkAddr _ => 0xC
  | .readScratchpad _ => 0xD
  | .readSensor _ => 0xE

/-- The DATA byte of a command word. -/
def Instr.data : Instr → Byte
  | .reset d => d
  | .writeBit d => d
  | .readBit d => d
  | .writeByte d => d
  | .readByte d => d
  | .matchAddress d => d
  | .sendCommand d => d
  | .searchFirst d => d
  | .crcClear d => d
  | .crcFeed d => d
  | .crcCheck d => d
  | .checkAddr d => d
  | .readScratchpad d => d
  | .readSensor d => d

/-- Encoding (30_encoding.md R72): RSV1 = 0, DATA, RSV0 = 0, OP, from the high bits down. -/
def encode (i : Instr) : Word := (0#16 ++ i.data ++ 0#4 ++ i.opcode : BitVec 32)

/-- The instruction the decoder reads from the bits `w` of a table word: the one 32-bit word, bits above `nbits` zero. -/
def decodeTableWord (nbits w : Nat) : Option Instr :=
  match decode (BitVec.ofNat 32 (w % 2 ^ nbits)) with
  | .ok i => some i
  | .error _ => none

/-- The command of an assembler line; none for a host access, for WAIT, and for an operand out of range, which is not
encoded (30_encoding.md R77). -/
def AsmLine.assemble (l : AsmLine) : Option Instr :=
  if l.wellFormed then
    match l with
    | .reset => some (.reset 0)
    | .writeBit imm => some (.writeBit (BitVec.ofNat 8 imm))
    | .readBit => some (.readBit 0)
    | .writeByte imm => some (.writeByte (BitVec.ofNat 8 imm))
    | .readByte => some (.readByte 0)
    | .matchAddress => some (.matchAddress 0)
    | .sendCommand imm => some (.sendCommand (BitVec.ofNat 8 imm))
    | .searchFirst => some (.searchFirst 0)
    | .crcClear => some (.crcClear 0)
    | .crcFeed imm => some (.crcFeed (BitVec.ofNat 8 imm))
    | .crcCheck => some (.crcCheck 0)
    | .checkAddr => some (.checkAddr 0)
    | .readScratchpad => some (.readScratchpad 0)
    | .readSensor => some (.readSensor 0)
    | .wr _ _ => none
    | .rd _ => none
    | .wait => none
  else none

/-- The expansion of a pseudo-command (30_encoding.md R78); CMD_CONVERT_T is a parameter. -/
def Pseudo.expand (c : Config) : Pseudo → List AsmLine
  | .convertT => [.sendCommand c.cmdConvertT.toNat]
  | .checkCrc8 data => [.crcClear, .wait] ++ data.flatMap (fun b => [.crcFeed b, .wait]) ++ [.crcCheck, .wait]
  | .setAddr a => [.wr 0x14 (a % 2 ^ 32), .wr 0x18 (a / 2 ^ 32)]
  | .writeBytes data => data.flatMap fun b => [.writeByte b, .wait]

end Sys2Proof
end

