-- ==== Sys2Proof/Machine/Defaults.lean ====
section
/-! DEFINITION. The default values of the parameters (00_scope.md R8, R9, R11, R12, R13). -/

namespace Sys2Proof.Machine

/-- The default resolution table (00_scope.md R12). -/
def defaultResTable : List ResRow :=
  [⟨0x1F, 0, 9, 2, 94⟩, ⟨0x3F, 1, 10, 4, 188⟩, ⟨0x5F, 2, 11, 8, 375⟩, ⟨0x7F, 3, 12, 16, 750⟩]

/-- The defaults. CLK_PER_US is OPEN (00_scope.md R5): DESIGN CHOICE 1, assumption 4. The command bytes are the spec's
own defaults, marked there as general knowledge (93_implementation_defined.md G2): PRESUMED, assumption 5. -/
def defaultConfig : Config where
  clkPerUs := 1
  tWaitHighMax := 250
  tRstl := 504
  tPdwin := 504
  tW1l := 5
  tW0l := 80
  tWslot := 80
  tRec := 2
  tRl := 6
  tRs := 9
  tRslot := 70
  cmdMatchRom := 0x55
  cmdSearchRom := 0xF0
  cmdReadScratchpad := 0xBE
  cmdConvertT := 0x44
  familyCode := 0x28
  searchPairMap := .wiredAnd
  resTable := defaultResTable

end Sys2Proof.Machine
end

