-- ==== Sys2Proof/Machine/State.lean ====
section
/-! DEFINITION. The state of the block (10_state.md), the sequencer's position as plain data (10_state.md R45), the
inputs a step reads, the reasons a step can stop, and the state after reset (70_reset_and_hazards.md R161). -/

namespace Sys2Proof.Machine

/-- The codes of STATUS.ERR (60_exceptions.md R145), in order from 0. -/
inductive ErrCode where
  | none
  | busNotHighTimeout
  | deviceNotPresent
  | noResponseToSearch
  | checksumFailed
  | invalidResolution
  /-- Reserved for the host's software; the block never raises it. -/
  | familyCodeMismatch
  | illegalCommand
  deriving DecidableEq, Repr

/-- Where a write slot takes its bit from. -/
inductive BitSrc where
  /-- `CMD_DATA[0]` (40_bus_primitives.md R89). -/
  | cmdData0
  /-- `SHIFT[0]` (41_bytes_and_select.md R95). -/
  | shift0
  /-- The bit the search chose (42_search.md R113). -/
  | chosen
  deriving DecidableEq, Repr

/-- Where `WBYTE` takes its byte from. -/
inductive ByteSrc where
  /-- A ROM or function command byte (00_scope.md R9). -/
  | const (b : Byte)
  /-- `CMD_DATA` (41_bytes_and_select.md R96, R99). -/
  | cmdData
  /-- `ROM_ADDR.byte[k]` (41_bytes_and_select.md R98). -/
  | romByte (k : Fin 8)
  deriving DecidableEq, Repr

/-- The assignments and checks of the command rules' pseudocode, which take no tick. -/
inductive Act where
  /-- `SHIFT <- d`, BITCNT at 0 (41_bytes_and_select.md R95, WBYTE). -/
  | loadShift (src : ByteSrc)
  /-- `SHIFT <- SHIFT >> 1`, next BITCNT (41_bytes_and_select.md R95, WBYTE). -/
  | shiftOut
  /-- `SHIFT <- 0`, BITCNT at 0 (41_bytes_and_select.md R95, RBYTE). -/
  | clearShift
  /-- `SHIFT <- {b, SHIFT[7:1]}`, next BITCNT (41_bytes_and_select.md R95, RBYTE). -/
  | shiftIn
  /-- `PRES_SEEN <- 0` (40_bus_primitives.md R84). -/
  | clearPres
  /-- `RX_DATA <- zext_8(b)` (40_bus_primitives.md R90). -/
  | rxBit
  /-- `RX_DATA <- v` (41_bytes_and_select.md R97). -/
  | rxByte
  /-- `CRC <- 0` (43_crc8.md R122, 42_search.md R113, 44_scratchpad.md R127). -/
  | crcClear
  /-- `CRC <- crc8_byte(CRC, CMD_DATA)` (43_crc8.md R123). -/
  | crcFeed
  /-- `CRC <- crc8(ROM_ADDR.byte[0], …, ROM_ADDR.byte[7])` (43_crc8.md R125). -/
  | crcAddr
  /-- `if CRC != 0: raise CHECKSUM_FAILED` (43_crc8.md R124). -/
  | crcCheck
  /-- `SEARCH_ACC <- 0`, SEARCH_IDX at 0 (42_search.md R113). -/
  | searchInit
  /-- `t <- RSLOT()`: the true bit is the slot's sample (42_search.md R113). -/
  | latchTrue
  /-- `c <- RSLOT(); b <- pair_decide(t, c)`, which may raise (42_search.md R113, R114). -/
  | searchDecide
  /-- `SEARCH_ACC[SEARCH_IDX] <- b; CRC <- crc8_step(CRC, b)`, next SEARCH_IDX (42_search.md R113). -/
  | searchStep
  /-- `ROM_ADDR <- SEARCH_ACC` (42_search.md R116). -/
  | romFromAcc
  /-- `SP[k] <- v; CRC <- crc8_byte(CRC, v)` (44_scratchpad.md R127). -/
  | spStore (k : Fin 9)
  /-- `SP_VALID <- 1` (44_scratchpad.md R128). -/
  | spValid
  /-- `res_decode`, which may raise, and the sensor outputs (44_scratchpad.md R131). -/
  | sensorWrite
  deriving DecidableEq, Repr

/-- One entry of a command's segment list: a segment of 00_scope.md R15 with its length in ticks, or an assignment that
takes none. -/
inductive Seg where
  /-- `LOW(n)`. -/
  | low (n : Nat)
  /-- `REL(n)`. -/
  | rel (n : Nat)
  /-- `REL_S(n)`: the level of its first tick goes to `rdBit`. -/
  | relS (n : Nat)
  /-- `WAIT_HIGH(m)` (40_bus_primitives.md R83). -/
  | waitHigh (m : Nat)
  /-- The ticks of `PRES(n)` (40_bus_primitives.md R84). -/
  | pres (n : Nat)
  /-- The driven part of `WSLOT(b)`: `LOW(T_W1L)` or `LOW(T_W0L)` (40_bus_primitives.md R85). -/
  | slotLow (src : BitSrc)
  /-- The released rest of the slot time: `REL(T_WSLOT - T_W1L)` or `REL(T_WSLOT - T_W0L)`. -/
  | slotRel (src : BitSrc)
  /-- An assignment or a check. -/
  | act (a : Act)
  deriving DecidableEq, Repr

/-- SEQ (10_state.md R45): idle, or the running command's opcode and its remaining segments, the current one first; the
ticks already spent in the current segment are in `waitCnt`. -/
inductive Seq where
  | idle
  | running (op : BitVec 4) (prog : List Seg)
  deriving DecidableEq, Repr

/-- An input of the block; accesses and resets are atomic and fall between ticks (00_scope.md R6). -/
inductive Event where
  /-- A rising edge of `clk` with `ow_line_in = line`. -/
  | clock (line : Bool)
  /-- `MemWrite(off, 4, v)` (20_memory.md R60). -/
  | hostWrite (off : BitVec 6) (v : Word)
  /-- `MemRead(off, 4)` (20_memory.md R60). -/
  | hostRead (off : BitVec 6)
  /-- A host access of `bytes` bytes, narrower than 32 bits (20_memory.md R65). -/
  | hostNarrow (off : BitVec 6) (bytes : Nat)
  /-- The pin `rst_n` takes a level. -/
  | rstPin (level : Bool)
  /-- A hardware reset as one atomic event (70_reset_and_hazards.md R160). -/
  | hardReset
  deriving DecidableEq, Repr

/-- The state of the block. -/
structure State where
  /-- STATUS.BUSY (10_state.md R23). -/
  busy : Bool
  /-- STATUS.DONE (10_state.md R24). -/
  done : Bool
  /-- STATUS.ERR (10_state.md R25). -/
  err : ErrCode
  /-- STATUS.SP_VALID (10_state.md R26). -/
  spValid : Bool
  /-- STATUS.SENSOR_VALID (10_state.md R27). -/
  sensorValid : Bool
  /-- STATUS.REJ (10_state.md R28). -/
  rej : Bool
  /-- CTRL.IE (10_state.md R30). -/
  ie : Bool
  /-- RX_DATA (10_state.md R31). -/
  rxData : Byte
  /-- The CRC-8 accumulator (10_state.md R32). -/
  crc : Byte
  /-- ROM_ADDR as a 64-bit number, byte 0 in bits 7:0 (10_state.md R33). -/
  romAddr : BitVec 64
  /-- SP[0..8] (10_state.md R36). -/
  sp : Vector Byte 9
  /-- TEMP_RAW (10_state.md R38). -/
  tempRaw : BitVec 16
  /-- ALARM_H (10_state.md R39). -/
  alarmH : Byte
  /-- ALARM_L (10_state.md R39). -/
  alarmL : Byte
  /-- RES (10_state.md R40). -/
  res : BitVec 2
  /-- CMD_DATA, hidden (10_state.md R44). -/
  cmdData : Byte
  /-- SEQ, hidden (10_state.md R45). -/
  seq : Seq
  /-- PRESC, hidden (10_state.md R43). -/
  presc : Nat
  /-- SHIFT, hidden (10_state.md R46). -/
  shift : Byte
  /-- BITCNT, hidden (10_state.md R46). -/
  bitCnt : Fin 9
  /-- SEARCH_ACC, hidden (10_state.md R46). -/
  searchAcc : BitVec 64
  /-- SEARCH_IDX, hidden (10_state.md R46). -/
  searchIdx : Fin 65
  /-- PRES_SEEN, hidden (10_state.md R46). -/
  presSeen : Bool
  /-- WAIT_CNT, the ticks spent in the current segment, hidden (10_state.md R46). -/
  waitCnt : Nat
  /-- The pseudocode's `b` of RSLOT between its sample and its use (40_bus_primitives.md R87); assumption 7. -/
  rdBit : Bool
  /-- The pseudocode's `t` of SEARCH_FIRST (42_search.md R113); assumption 7. -/
  trueBit : Bool
  /-- The pseudocode's `b` of SEARCH_FIRST (42_search.md R113); assumption 7. -/
  chosen : Bool
  /-- The level of the pin `rst_n` (10_state.md R18, 70_reset_and_hazards.md R160). -/
  rstN : Bool
  /-- The port `host_rdata` as the last host read left it (10_state.md R18). -/
  hostRdata : Word
  /-- The configuration, changed by no step; assumption 3. -/
  cfg : Config
  /-- The pending inputs, oldest first; assumption 2. -/
  events : List Event
  /-- How many free values have been drawn; the model's own, assumption 8. -/
  draws : Nat
  deriving DecidableEq, Repr

/-- The block never stops (60_exceptions.md R140: it never enters a state from which it cannot go on), so there is no
reason a step could fault. -/
inductive Fault where
  deriving DecidableEq, Repr

/-- Why a step is refused. -/
inductive Refusal where
  /-- Raised by an arm of `exec` for a command that has no meaning yet (none is left). Safe: nothing is claimed of it. -/
  | notModelled (mnemonic : String)
  /-- Raised by a host access narrower than 32 bits, to which 20_memory.md R65 gives no meaning. Safe: nothing is
  claimed of what follows. -/
  | narrowAccess (off : BitVec 6) (bytes : Nat)
  deriving DecidableEq, Repr

/-- The state right after a hardware reset (70_reset_and_hazards.md R161). The spec gives every register's value; the
model's own fields and the ports `rst_n`, `host_rdata` are assumptions 2, 3, 7, 8, 9, 10. -/
def State.reset : State where
  busy := false
  done := false
  err := .none
  spValid := false
  sensorValid := false
  rej := false
  ie := false
  rxData := 0
  crc := 0
  romAddr := 0
  sp := Vector.replicate 9 0
  tempRaw := 0
  alarmH := 0
  alarmL := 0
  res := 0
  cmdData := 0
  seq := .idle
  presc := 0
  shift := 0
  bitCnt := 0
  searchAcc := 0
  searchIdx := 0
  presSeen := false
  waitCnt := 0
  rdBit := false
  trueBit := false
  chosen := false
  rstN := true
  hostRdata := 0
  cfg := defaultConfig
  events := []
  draws := 0

end Sys2Proof.Machine
end

