-- ==== Sys2Proof/Machine/Operands.lean ====
section
/-! DEFINITION. Operands and fields: bytes of the address, sources of bits and bytes, the CRC-8 function, the search's
pair table, the resolution table, and the map of register offsets. -/

namespace Sys2Proof.Machine

/-- `ROM_ADDR.byte[k]`: bits `8k+7:8k` (10_state.md R33, 20_memory.md R61). -/
def romByte (a : BitVec 64) (k : Fin 8) : Byte := a.extractLsb' (8 * k.val) 8

/-- The eight bytes of an address, byte 0 first (10_state.md R33). -/
def romBytes (a : BitVec 64) : List Byte := (List.finRange 8).map (romByte a)

/-- A word from its bytes, byte 0 lowest (20_memory.md R61). -/
def packWord (b3 b2 b1 b0 : Byte) : Word := (b3 ++ b2 ++ b1 ++ b0 : BitVec 32)

/-- The bit a write slot sends. -/
def readBitSrc (s : State) : BitSrc → Bool
  | .cmdData0 => s.cmdData.getLsbD 0
  | .shift0 => s.shift.getLsbD 0
  | .chosen => s.chosen

/-- The byte `WBYTE` sends. -/
def readByteSrc (s : State) : ByteSrc → Byte
  | .const b => b
  | .cmdData => s.cmdData
  | .romByte k => romByte s.romAddr k

/-- `crc8_step(c, b)` (43_crc8.md R120). -/
def crc8Step (c : Byte) (b : Bool) : Byte :=
  if Bool.xor (c.getLsbD 0) b then (c >>> 1) ^^^ 0x8C#8 else c >>> 1

/-- `crc8_byte(c, d)`: the bits of `d`, least significant first (43_crc8.md R120). -/
def crc8Byte (c d : Byte) : Byte :=
  (List.finRange 8).foldl (fun c i => crc8Step c (d.getLsbD i.val)) c

/-- The accumulator after a sequence of bytes, from `c`. -/
def crc8From (c : Byte) (ds : List Byte) : Byte := ds.foldl crc8Byte c

/-- `crc8(d0, …, dn-1)` (43_crc8.md R120). -/
def crc8 (ds : List Byte) : Byte := crc8From 0 ds

/-- `pair_decide(t, c)` (42_search.md R114): the chosen bit, or none for NO_RESPONSE_TO_SEARCH. -/
def pairDecide (m : SearchPairMap) (t c : Bool) : Option Bool :=
  match t, c, m with
  | false, true, _ => some false
  | true, false, _ => some true
  | false, false, .wiredAnd => some false
  | false, false, .asTabulated => none
  | true, true, .wiredAnd => none
  | true, true, .asTabulated => some false

/-- `SEARCH_ACC[i] <- b` (42_search.md R113). -/
def setBit (a : BitVec 64) (i : Nat) (b : Bool) : BitVec 64 :=
  if b then a ||| (1#64 <<< i) else a &&& ~~~(1#64 <<< i)

/-- `res_decode(cfg)` (44_scratchpad.md R133): the whole config byte is compared with each row; none for
INVALID_RESOLUTION. -/
def resDecode (table : List ResRow) (b : Byte) : Option (BitVec 2) :=
  (table.find? fun r => r.pattern == b).map (·.code)

/-- `divisor(RES)` (44_scratchpad.md R134). -/
def resDivisor (table : List ResRow) (r : BitVec 2) : Option Nat :=
  (table.find? fun row => row.code == r).map (·.divisor)

/-- The temperature in degrees Celsius that the consumer computes (44_scratchpad.md R134). The block does not. -/
def consumerTemp (s : State) : Option Rat :=
  (resDivisor s.cfg.resTable s.res).map fun d => (s.tempRaw.toInt : Rat) / (d : Rat)

/-- The word registers (10_state.md R20). -/
inductive Reg where
  | cmd
  | status
  | ctrl
  | rxData
  | crc
  | romAddrLo
  | romAddrHi
  | sp03
  | sp47
  | sp8
  | sensorTemp
  | sensorAlarm
  | sensorRes
  | reserved
  deriving DecidableEq, Repr

/-- The register of a byte offset: the word at `off & 0x3C` (20_memory.md R60, 10_state.md R20). -/
def regOf (off : BitVec 6) : Reg :=
  match (off &&& 0x3C#6).toNat with
  | 0x00 => .cmd
  | 0x04 => .status
  | 0x08 => .ctrl
  | 0x0C => .rxData
  | 0x10 => .crc
  | 0x14 => .romAddrLo
  | 0x18 => .romAddrHi
  | 0x1C => .sp03
  | 0x20 => .sp47
  | 0x24 => .sp8
  | 0x28 => .sensorTemp
  | 0x2C => .sensorAlarm
  | 0x30 => .sensorRes
  | _ => .reserved

/-- The result registers, whose value while BUSY is unspecified (20_memory.md R64). -/
def Reg.isResult : Reg → Bool
  | .rxData => true
  | .crc => true
  | .sp03 => true
  | .sp47 => true
  | .sp8 => true
  | .sensorTemp => true
  | .sensorAlarm => true
  | .sensorRes => true
  | .cmd => false
  | .status => false
  | .ctrl => false
  | .romAddrLo => false
  | .romAddrHi => false
  | .reserved => false

end Sys2Proof.Machine
end

