-- ==== Sys2Proof/Machine/Flags.lean ====
section
/-! DEFINITION. STATUS, CTRL and the interrupt: codes, read values, and the flag changes of acceptance, completion and
the host's writes (10_state.md R22 to R30, 60_exceptions.md R145 to R150). -/

namespace Sys2Proof.Machine

/-- The 3-bit code of an error (60_exceptions.md R145). -/
def ErrCode.code : ErrCode → BitVec 3
  | .none => 0
  | .busNotHighTimeout => 1
  | .deviceNotPresent => 2
  | .noResponseToSearch => 3
  | .checksumFailed => 4
  | .invalidResolution => 5
  | .familyCodeMismatch => 6
  | .illegalCommand => 7

/-- The read value of STATUS (10_state.md R29). -/
def statusWord (s : State) : Word :=
  (0#21 ++ BitVec.ofBool s.rej ++ BitVec.ofBool s.sensorValid ++ BitVec.ofBool s.spValid ++ 0#1 ++ s.err.code ++ 0#2
    ++ BitVec.ofBool s.done ++ BitVec.ofBool s.busy : BitVec 32)

/-- The read value of CTRL (10_state.md R30). -/
def ctrlWord (s : State) : Word := (BitVec.ofBool s.ie).setWidth 32

/-- The interrupt output (60_exceptions.md R150). -/
def irq (s : State) : Bool := s.done && s.ie

/-- DONE cleared by the host: the "return" from a completion (10_state.md R24, 60_exceptions.md R151). ERR stays. -/
def clearDone (s : State) : State := { s with done := false }

/-- A host write to CTRL (10_state.md R30). -/
def writeCtrl (v : Word) (s : State) : State := { s with ie := v.getLsbD 0 }

/-- A host write to STATUS: bit 1 set clears DONE, nothing else changes (10_state.md R24, R25, R28). -/
def writeStatus (v : Word) (s : State) : State := if v.getLsbD 1 then clearDone s else s

/-- A write to CMD or ROM_ADDR while BUSY (10_state.md R28, 60_exceptions.md R147). -/
def reject (s : State) : State := { s with rej := true }

/-- What the acceptance of any word, legal or not, writes (60_exceptions.md R146). -/
def acceptFlags (data : Byte) (s : State) : State :=
  { s with done := false, err := .none, rej := false, cmdData := data }

/-- The clear at acceptance of READ_SCRATCHPAD and READ_SENSOR (10_state.md R26). -/
def clearSpValid (s : State) : State := { s with spValid := false }

/-- The clears at acceptance of READ_SENSOR (10_state.md R26, R27). -/
def clearSensorValid (s : State) : State := { s with spValid := false, sensorValid := false }

end Sys2Proof.Machine
end

