-- ==== Sys2Proof/Machine/Ops.lean ====
section
/-! DEFINITION. The shared operations: raising an error, completing, the assignments of the pseudocode, one tick of the
sequencer, acceptance of a command, hardware reset, a clock edge, and the read value of a register. -/

namespace Sys2Proof.Machine

/-- The exception of this block (60_exceptions.md R148): ERR gets the code, DONE is set, BUSY cleared, SEQ idle. Nothing
else is saved (R143) and the code is the only thing that says where the host goes on (R151). -/
def raise (e : ErrCode) (s : State) : State :=
  { s with err := e, done := true, busy := false, seq := .idle }

/-- Completion without error (60_exceptions.md R149). -/
def complete (s : State) : State := { s with done := true, busy := false, seq := .idle }

/-- The sensor outputs, all in one step (44_scratchpad.md R131, R132). -/
def writeSensor (r : BitVec 2) (s : State) : State :=
  { s with tempRaw := (s.sp[1] ++ s.sp[0] : BitVec 16), alarmH := s.sp[2], alarmL := s.sp[3], res := r, sensorValid := true }

/-- One assignment or check: the state after it, and the error it raises, if any. -/
def runAct (a : Act) (s : State) : State × Option ErrCode :=
  match a with
  | .loadShift src => ({ s with shift := readByteSrc s src, bitCnt := 0 }, none)
  | .shiftOut => ({ s with shift := s.shift >>> 1, bitCnt := s.bitCnt + 1 }, none)
  | .clearShift => ({ s with shift := 0, bitCnt := 0 }, none)
  | .shiftIn => ({ s with shift := (BitVec.ofBool s.rdBit ++ s.shift.extractLsb' 1 7 : BitVec 8), bitCnt := s.bitCnt + 1 }, none)
  | .clearPres => ({ s with presSeen := false }, none)
  | .rxBit => ({ s with rxData := (BitVec.ofBool s.rdBit).setWidth 8 }, none)
  | .rxByte => ({ s with rxData := s.shift }, none)
  | .crcClear => ({ s with crc := 0 }, none)
  | .crcFeed => ({ s with crc := crc8Byte s.crc s.cmdData }, none)
  | .crcAddr => ({ s with crc := crc8 (romBytes s.romAddr) }, none)
  | .crcCheck => (s, if s.crc = 0 then none else some .checksumFailed)
  | .searchInit => ({ s with searchAcc := 0, searchIdx := 0 }, none)
  | .latchTrue => ({ s with trueBit := s.rdBit }, none)
  | .searchDecide =>
    match pairDecide s.cfg.searchPairMap s.trueBit s.rdBit with
    | some b => ({ s with chosen := b }, none)
    | none => (s, some .noResponseToSearch)
  | .searchStep =>
    ({ s with searchAcc := setBit s.searchAcc s.searchIdx.val s.chosen, crc := crc8Step s.crc s.chosen,
              searchIdx := s.searchIdx + 1 }, none)
  | .romFromAcc => ({ s with romAddr := s.searchAcc }, none)
  | .spStore k => ({ s with sp := s.sp.set k.val s.shift k.isLt, crc := crc8Byte s.crc s.shift }, none)
  | .spValid => ({ s with spValid := true }, none)
  | .sensorWrite =>
    match resDecode s.cfg.resTable s.sp[4] with
    | some r => (writeSensor r s, none)
    | none => (s, some .invalidResolution)

/-- The driven ticks of a write slot for the bit `b` (40_bus_primitives.md R85). -/
def slotLowTicks (c : Config) (b : Bool) : Nat := if b then c.tW1l else c.tW0l

/-- The length of a segment in ticks, at most, for WAIT_HIGH. -/
def segTicks (s : State) : Seg → Nat
  | .low n => n
  | .rel n => n
  | .relS n => n
  | .waitHigh m => m
  | .pres n => n
  | .slotLow src => slotLowTicks s.cfg (readBitSrc s src)
  | .slotRel src => s.cfg.tWslot - slotLowTicks s.cfg (readBitSrc s src)
  | .act _ => 0

/-- Enter the remaining segments of the command `op`: run the assignments that stand at its head, skip segments of no
ticks (00_scope.md R15: `REL(0)` is empty), stop at the first segment that takes ticks, or complete. An assignment that
raises ends the command in this same step (60_exceptions.md R148). WAIT_CNT starts at 0. -/
def enter (op : BitVec 4) : List Seg → State → State
  | [], s => complete { s with waitCnt := 0 }
  | .act a :: rest, s =>
    match runAct a s with
    | (s', none) => enter op rest s'
    | (s', some e) => raise e { s' with waitCnt := 0 }
  | g :: rest, s =>
    if segTicks s g = 0 then enter op rest s else { s with seq := .running op (g :: rest), waitCnt := 0 }

/-- What a tick of the segment `g` samples (00_scope.md R15, 40_bus_primitives.md R84). The other segments do not look
at the line, or only to decide their end. -/
def sampleLine (g : Seg) (line : Bool) (s : State) : State :=
  match g with
  | .relS _ => if s.waitCnt = 0 then { s with rdBit := line } else s
  | .pres _ => { s with presSeen := s.presSeen || !line }
  | .low _ => s
  | .rel _ => s
  | .waitHigh _ => s
  | .slotLow _ => s
  | .slotRel _ => s
  | .act _ => s

/-- Whether the segment ends with this tick: after its length, and WAIT_HIGH also at a high level
(40_bus_primitives.md R83). -/
def segEnds (g : Seg) (line : Bool) (s : State) : Bool :=
  match g with
  | .waitHigh m => line || decide (m ≤ s.waitCnt + 1)
  | _ => decide (segTicks s g ≤ s.waitCnt + 1)

/-- The error the end of a segment raises: WAIT_HIGH that ended on a low level, PRES that saw no low
(40_bus_primitives.md R83, R84). -/
def segError (g : Seg) (line : Bool) (s : State) : Option ErrCode :=
  match g with
  | .waitHigh _ => if line then none else some .busNotHighTimeout
  | .pres _ => if s.presSeen then none else some .deviceNotPresent
  | _ => none

/-- One tick of a running command whose current segment is `g`. -/
def tickSeg (op : BitVec 4) (g : Seg) (rest : List Seg) (line : Bool) (s : State) : State :=
  let s1 := sampleLine g line s
  if segEnds g line s1 then
    match segError g line s1 with
    | none => enter op rest s1
    | some e => raise e s1
  else { s1 with waitCnt := s1.waitCnt + 1 }

/-- One tick (00_scope.md R6): nothing while idle (60_exceptions.md R157). A list with an assignment at its head, or
empty, stands for a position no tick is spent in, so it is entered. -/
def tick (s : State) (line : Bool) : State :=
  match s.seq with
  | .idle => s
  | .running op [] => enter op [] s
  | .running op (.act a :: rest) => enter op (.act a :: rest) s
  | .running op (g :: rest) => tickSeg op g rest line s

/-- `ow_drive_low`, a function of the state before the tick (00_scope.md R6, 10_state.md R19). -/
def drive (s : State) : Bool :=
  match s.seq with
  | .running _ (.low _ :: _) => true
  | .running _ (.slotLow _ :: _) => true
  | _ => false

/-- Acceptance of a legal word (60_exceptions.md R146): the flags and CMD_DATA, the clears of the command's own rule,
BUSY, and SEQ at the start of the segment list. -/
def accept (op : BitVec 4) (data : Byte) (clears : State → State) (prog : List Seg) (s : State) : State :=
  enter op prog { clears (acceptFlags data s) with busy := true }

/-- A legal word offered to CMD: accepted while BUSY = 0 (60_exceptions.md R146), else refused with REJ (R147). -/
def offer (op : BitVec 4) (data : Byte) (clears : State → State) (prog : List Seg) (s : State) :
    Host.Outcome State Fault Refusal :=
  .next (if s.busy then reject s else accept op data clears prog s)

/-- An illegal word offered to CMD (30_encoding.md R76, 60_exceptions.md R146): accepted while BUSY = 0, it raises
ILLEGAL_COMMAND at once and runs nothing; while BUSY = 1 it is refused with REJ. -/
def offerIllegal (data : Byte) (s : State) : State :=
  if s.busy then reject s else raise .illegalCommand (acceptFlags data s)

/-- Every architectural and hidden register at its reset value, the line released (70_reset_and_hazards.md R160, R161).
The pins, the configuration and the pending inputs are no registers of the block. -/
def resetRegs (s : State) : State :=
  { State.reset with rstN := s.rstN, cfg := s.cfg, events := s.events, draws := s.draws }

/-- A hardware reset as one atomic event (70_reset_and_hazards.md R160). -/
def hardReset (s : State) : State := resetRegs { s with rstN := true }

/-- A rising edge of `clk`: reset while `rst_n = 0`; else the prescaler counts, and each CLK_PER_US-th edge is a tick
(00_scope.md R5, 10_state.md R43, 70_reset_and_hazards.md R160). -/
def clockEdge (line : Bool) (s : State) : State :=
  if s.rstN then
    if s.cfg.clkPerUs ≤ s.presc + 1 then tick { s with presc := 0 } line else { s with presc := s.presc + 1 }
  else resetRegs s

/-- The exact value of a register (10_state.md R20 to R41). CMD and the reserved words read 0 (20_memory.md R63). -/
def regValue (s : State) : Reg → Word
  | .cmd => 0
  | .status => statusWord s
  | .ctrl => ctrlWord s
  | .rxData => s.rxData.setWidth 32
  | .crc => s.crc.setWidth 32
  | .romAddrLo => s.romAddr.extractLsb' 0 32
  | .romAddrHi => s.romAddr.extractLsb' 32 32
  | .sp03 => packWord s.sp[3] s.sp[2] s.sp[1] s.sp[0]
  | .sp47 => packWord s.sp[7] s.sp[6] s.sp[5] s.sp[4]
  | .sp8 => s.sp[8].setWidth 32
  | .sensorTemp => s.tempRaw.signExtend 32
  | .sensorAlarm => (0#16 ++ s.alarmL ++ s.alarmH : BitVec 32)
  | .sensorRes => s.res.setWidth 32
  | .reserved => 0

/-- A host read: 0 while `rst_n = 0` (70_reset_and_hazards.md R160), a free value for a result register while BUSY
(20_memory.md R64), else the exact value. It changes no register (20_memory.md R66). Which level of `rst_n` counts
between its change and the next edge is assumptions 10 and 25, the model's choices. -/
def hostRead (off : BitVec 6) (s : State) : State :=
  if !s.rstN then { s with hostRdata := 0 }
  else if s.busy && (regOf off).isResult then { s with hostRdata := Config.freeWord s.draws, draws := s.draws + 1 }
  else { s with hostRdata := regValue s (regOf off) }

/-- A host write to ROM_ADDR_LO: bytes 0..3, or REJ while BUSY (10_state.md R34). -/
def writeRomLo (v : Word) (s : State) : State :=
  if s.busy then reject s else { s with romAddr := (s.romAddr.extractLsb' 32 32 ++ v : BitVec 64) }

/-- A host write to ROM_ADDR_HI: bytes 4..7, or REJ while BUSY (10_state.md R34). -/
def writeRomHi (v : Word) (s : State) : State :=
  if s.busy then reject s else { s with romAddr := (v ++ s.romAddr.extractLsb' 0 32 : BitVec 64) }

end Sys2Proof.Machine
end

