-- ==== Sys2Proof/Machine/Segments.lean ====
section
/-! DEFINITION. The segment lists the commands are built from (40_bus_primitives.md R83 to R88, 41_bytes_and_select.md
R95, R98, 44_scratchpad.md R127). -/

namespace Sys2Proof.Machine

/-- A loop of `n` equal rounds, written out. -/
def rounds : Nat → List Seg → List Seg
  | 0, _ => []
  | n + 1, body => body ++ rounds n body

/-- The RESET sequence (40_bus_primitives.md R88). -/
def resetSeq (c : Config) : List Seg :=
  [.waitHigh c.tWaitHighMax, .low c.tRstl, .act .clearPres, .pres c.tPdwin]

/-- `WSLOT(b)` (40_bus_primitives.md R85). -/
def wslot (c : Config) (src : BitSrc) : List Seg := [.slotLow src, .slotRel src, .rel c.tRec]

/-- `RSLOT()` (40_bus_primitives.md R87). -/
def rslot (c : Config) : List Seg := [.low c.tRl, .rel c.tRs, .relS (c.tRslot - c.tRl - c.tRs)]

/-- `WBYTE(d)` (41_bytes_and_select.md R95). -/
def wbyte (c : Config) (src : ByteSrc) : List Seg :=
  .act (.loadShift src) :: rounds 8 (wslot c .shift0 ++ [.act .shiftOut])

/-- `RBYTE()` (41_bytes_and_select.md R95); the byte is left in SHIFT. -/
def rbyte (c : Config) : List Seg := .act .clearShift :: rounds 8 (rslot c ++ [.act .shiftIn])

/-- The MATCH_ADDRESS sequence (41_bytes_and_select.md R98). -/
def matchSeq (c : Config) : List Seg :=
  wbyte c (.const c.cmdMatchRom) ++ (List.finRange 8).flatMap fun k => wbyte c (.romByte k)

/-- One bit of the search (42_search.md R113). -/
def searchBit (c : Config) : List Seg :=
  rslot c ++ [.act .latchTrue] ++ rslot c ++ [.act .searchDecide] ++ wslot c .chosen ++ [.act .searchStep]

/-- The scratchpad read sequence `SP_READ`, with SP_VALID set when the residue is 0 (44_scratchpad.md R127, R128). -/
def spRead (c : Config) : List Seg :=
  resetSeq c ++ matchSeq c ++ wbyte c (.const c.cmdReadScratchpad) ++ [.act .crcClear]
    ++ ((List.finRange 9).flatMap fun k => rbyte c ++ [.act (.spStore k)]) ++ [.act .crcCheck, .act .spValid]

end Sys2Proof.Machine
end

