-- ==== Sys2Proof/Machine/BusPrimitives.lean ====
section
/-! DEFINITION. RESET, WRITE_BIT and READ_BIT (40_bus_primitives.md). -/

namespace Sys2Proof.Machine

/-- The segment list of RESET (40_bus_primitives.md R88). -/
def progReset (c : Config) : List Seg := resetSeq c

/-- RESET (40_bus_primitives.md R88). -/
def execReset (data : Byte) (s : State) : Host.Outcome State Fault Refusal := offer 0x1 data id (progReset s.cfg) s

/-- The segment list of WRITE_BIT (40_bus_primitives.md R89). -/
def progWriteBit (c : Config) : List Seg := wslot c .cmdData0

/-- WRITE_BIT: only bit 0 of DATA counts (40_bus_primitives.md R89). -/
def execWriteBit (data : Byte) (s : State) : Host.Outcome State Fault Refusal := offer 0x2 data id (progWriteBit s.cfg) s

/-- The segment list of READ_BIT (40_bus_primitives.md R90). -/
def progReadBit (c : Config) : List Seg := rslot c ++ [.act .rxBit]

/-- READ_BIT (40_bus_primitives.md R90). -/
def execReadBit (data : Byte) (s : State) : Host.Outcome State Fault Refusal := offer 0x3 data id (progReadBit s.cfg) s

end Sys2Proof.Machine
end

