-- ==== Sys2Proof/Machine/Bytes.lean ====
section
/-! DEFINITION. WRITE_BYTE, READ_BYTE, MATCH_ADDRESS and SEND_COMMAND (41_bytes_and_select.md). -/

namespace Sys2Proof.Machine

/-- The segment list of WRITE_BYTE (41_bytes_and_select.md R96). -/
def progWriteByte (c : Config) : List Seg := wbyte c .cmdData

/-- WRITE_BYTE (41_bytes_and_select.md R96). -/
def execWriteByte (data : Byte) (s : State) : Host.Outcome State Fault Refusal := offer 0x4 data id (progWriteByte s.cfg) s

/-- The segment list of READ_BYTE (41_bytes_and_select.md R97). -/
def progReadByte (c : Config) : List Seg := rbyte c ++ [.act .rxByte]

/-- READ_BYTE (41_bytes_and_select.md R97). -/
def execReadByte (data : Byte) (s : State) : Host.Outcome State Fault Refusal := offer 0x5 data id (progReadByte s.cfg) s

/-- The segment list of MATCH_ADDRESS (41_bytes_and_select.md R98). -/
def progMatchAddress (c : Config) : List Seg := matchSeq c

/-- MATCH_ADDRESS (41_bytes_and_select.md R98). -/
def execMatchAddress (data : Byte) (s : State) : Host.Outcome State Fault Refusal :=
  offer 0x6 data id (progMatchAddress s.cfg) s

/-- The segment list of SEND_COMMAND (41_bytes_and_select.md R99). -/
def progSendCommand (c : Config) : List Seg := resetSeq c ++ matchSeq c ++ wbyte c .cmdData

/-- SEND_COMMAND (41_bytes_and_select.md R99). -/
def execSendCommand (data : Byte) (s : State) : Host.Outcome State Fault Refusal :=
  offer 0x7 data id (progSendCommand s.cfg) s

end Sys2Proof.Machine
end

