-- ==== Sys2Proof/Machine/Crc.lean ====
section
/-! DEFINITION. CRC_CLEAR, CRC_FEED, CRC_CHECK and CHECK_ADDR: one released tick each (43_crc8.md). -/

namespace Sys2Proof.Machine

/-- The segment list of CRC_CLEAR (43_crc8.md R122). -/
def progCrcClear : List Seg := [.rel 1, .act .crcClear]

/-- CRC_CLEAR (43_crc8.md R122). -/
def execCrcClear (data : Byte) (s : State) : Host.Outcome State Fault Refusal := offer 0x9 data id progCrcClear s

/-- The segment list of CRC_FEED (43_crc8.md R123). -/
def progCrcFeed : List Seg := [.rel 1, .act .crcFeed]

/-- CRC_FEED (43_crc8.md R123). -/
def execCrcFeed (data : Byte) (s : State) : Host.Outcome State Fault Refusal := offer 0xA data id progCrcFeed s

/-- The segment list of CRC_CHECK (43_crc8.md R124). -/
def progCrcCheck : List Seg := [.rel 1, .act .crcCheck]

/-- CRC_CHECK (43_crc8.md R124). -/
def execCrcCheck (data : Byte) (s : State) : Host.Outcome State Fault Refusal := offer 0xB data id progCrcCheck s

/-- The segment list of CHECK_ADDR (43_crc8.md R125). -/
def progCheckAddr : List Seg := [.rel 1, .act .crcAddr, .act .crcCheck]

/-- CHECK_ADDR (43_crc8.md R125). -/
def execCheckAddr (data : Byte) (s : State) : Host.Outcome State Fault Refusal := offer 0xC data id progCheckAddr s

end Sys2Proof.Machine
end

