-- ==== Sys2Proof/Machine/Scratchpad.lean ====
section
/-! DEFINITION. READ_SCRATCHPAD and READ_SENSOR (44_scratchpad.md). -/

namespace Sys2Proof.Machine

/-- The segment list of READ_SCRATCHPAD (44_scratchpad.md R130). -/
def progReadScratchpad (c : Config) : List Seg := spRead c

/-- READ_SCRATCHPAD: SP_VALID is cleared at acceptance (44_scratchpad.md R130). -/
def execReadScratchpad (data : Byte) (s : State) : Host.Outcome State Fault Refusal :=
  offer 0xD data clearSpValid (progReadScratchpad s.cfg) s

/-- The segment list of READ_SENSOR: the scratchpad's, then the decode in the same step (44_scratchpad.md R131, R138). -/
def progReadSensor (c : Config) : List Seg := spRead c ++ [.act .sensorWrite]

/-- READ_SENSOR: SP_VALID and SENSOR_VALID are cleared at acceptance (44_scratchpad.md R131). -/
def execReadSensor (data : Byte) (s : State) : Host.Outcome State Fault Refusal :=
  offer 0xE data clearSensorValid (progReadSensor s.cfg) s

end Sys2Proof.Machine
end

