-- ==== Sys2Proof/Machine/Search.lean ====
section
/-! DEFINITION. SEARCH_FIRST (42_search.md). -/

namespace Sys2Proof.Machine

/-- The segment list of SEARCH_FIRST (42_search.md R113). -/
def progSearchFirst (c : Config) : List Seg :=
  resetSeq c ++ wbyte c (.const c.cmdSearchRom) ++ [.act .searchInit, .act .crcClear] ++ rounds 64 (searchBit c)
    ++ [.act .crcCheck, .act .romFromAcc]

/-- SEARCH_FIRST (42_search.md R113). -/
def execSearchFirst (data : Byte) (s : State) : Host.Outcome State Fault Refusal :=
  offer 0x8 data id (progSearchFirst s.cfg) s

end Sys2Proof.Machine
end

