-- ==== Sys2Proof/Machine/Dispatch.lean ====
section
/-! DEFINITION. One arm per command: a legal word offered to CMD (30_encoding.md R75, 60_exceptions.md R146). -/

namespace Sys2Proof.Machine

def exec (i : Instr) (s : State) : Host.Outcome State Fault Refusal :=
  match i with
  | .reset d => Sys2Proof.Machine.execReset d s
  | .writeBit d => Sys2Proof.Machine.execWriteBit d s
  | .readBit d => Sys2Proof.Machine.execReadBit d s
  | .writeByte d => Sys2Proof.Machine.execWriteByte d s
  | .readByte d => Sys2Proof.Machine.execReadByte d s
  | .matchAddress d => Sys2Proof.Machine.execMatchAddress d s
  | .sendCommand d => Sys2Proof.Machine.execSendCommand d s
  | .searchFirst d => Sys2Proof.Machine.execSearchFirst d s
  | .crcClear d => Sys2Proof.Machine.execCrcClear d s
  | .crcFeed d => Sys2Proof.Machine.execCrcFeed d s
  | .crcCheck d => Sys2Proof.Machine.execCrcCheck d s
  | .checkAddr d => Sys2Proof.Machine.execCheckAddr d s
  | .readScratchpad d => Sys2Proof.Machine.execReadScratchpad d s
  | .readSensor d => Sys2Proof.Machine.execReadSensor d s

end Sys2Proof.Machine
end

