-- ==== Sys2Proof/Machine/HostPort.lean ====
section
/-! DEFINITION. The inputs of the block: host writes, and one event of the list of inputs (20_memory.md R60 to R66,
00_scope.md R6). -/

namespace Sys2Proof.Machine

/-- A word written to CMD (10_state.md R21): a legal one runs its command's meaning, an illegal one raises code 7. -/
def writeCmd (v : Word) (s : State) : Host.Outcome State Fault Refusal :=
  match decode v with
  | .ok i => exec i s
  | .error _ => .next (offerIllegal (dataField v) s)

/-- A host write: no effect while `rst_n = 0` (70_reset_and_hazards.md R160); ignored by read-only and reserved words
(20_memory.md R63). R160 does not name the time between a change of `rst_n` and the next rising edge of `clk`: that a
write is ignored from the fall of the pin on is assumption 10, and that it acts from the rise on is assumption 25, both
the model's choices. -/
def hostWrite (off : BitVec 6) (v : Word) (s : State) : Host.Outcome State Fault Refusal :=
  if !s.rstN then .next s
  else
    match regOf off with
    | .cmd => writeCmd v s
    | .status => .next (writeStatus v s)
    | .ctrl => .next (writeCtrl v s)
    | .romAddrLo => .next (writeRomLo v s)
    | .romAddrHi => .next (writeRomHi v s)
    | .rxData => .next s
    | .crc => .next s
    | .sp03 => .next s
    | .sp47 => .next s
    | .sp8 => .next s
    | .sensorTemp => .next s
    | .sensorAlarm => .next s
    | .sensorRes => .next s
    | .reserved => .next s

/-- One input, already taken off the list. A level of `rst_n` governs the accesses that follow it at once, not from the
next rising edge of `clk` on: DESIGN CHOICE, assumptions 10 and 25. -/
def handle (e : Event) (s : State) : Host.Outcome State Fault Refusal :=
  match e with
  | .clock line => .next (clockEdge line s)
  | .hostWrite off v => hostWrite off v s
  | .hostRead off => .next (hostRead off s)
  | .hostNarrow off bytes => .refused (.narrowAccess off bytes)
  | .rstPin level => .next { s with rstN := level }
  | .hardReset => .next (hardReset s)

/-- With no input listed, a clock edge on which the environment's level is a free value (00_scope.md R7). -/
def freeClock (s : State) : State := clockEdge (Config.freeLine s.draws) { s with draws := s.draws + 1 }

end Sys2Proof.Machine
end

