-- ==== Sys2Proof/Machine/Step.lean ====
section
/-! DEFINITION. One step: the oldest pending input, or a clock edge with a free line level. -/

namespace Sys2Proof.Machine

/-- One step of the machine. The order of the events decides every race of a host access with a tick
(60_exceptions.md R158). -/
def step (s : State) : Host.Outcome State Fault Refusal :=
  match s.events with
  | [] => .next (freeClock s)
  | e :: rest => handle e { s with events := rest }

/-- The state with the command word `w` as the next input: a host write of it to CMD, `rst_n` high so that the write has
an effect. There is no program to load (20_memory.md R69); assumption 14. -/
def State.withFetchWord (s : State) (nbits w : Nat) : State :=
  { s with rstN := true, events := .hostWrite 0 (BitVec.ofNat 32 (w % 2 ^ nbits)) :: s.events }

end Sys2Proof.Machine
end

