-- ==== Sys2Proof/Safety.lean ====
section
/-! DEFINITION. The terms of the claims: runs of ticks, what the host can see of a state, the lengths of the commands,
the invariant of the sequencer, and the host's duties (70_reset_and_hazards.md R165 to R172). -/

namespace Sys2Proof.Machine

/-! ### Runs of ticks -/

/-- The state after `n` ticks, the line reading `line k` on the k-th (counted from 0). -/
def ticks (line : Nat → Bool) : Nat → State → State
  | 0, s => s
  | n + 1, s => tick (ticks line n s) (line n)

/-- The command is running at every tick before the n-th, so it ends in the step of tick `n - 1` or later. -/
def busyFor (line : Nat → Bool) (n : Nat) (s : State) : Prop := ∀ k, k < n → (ticks line k s).busy = true

/-- Equal but for the hidden scratch registers of 10_state.md R46 and the pseudocode's locals, whose values between
commands no rule reads (93_implementation_defined.md I19). `hostRdata` is compared: that it is held between reads is
assumption 9. -/
def State.visible (s : State) : State :=
  { s with shift := 0, bitCnt := 0, searchAcc := 0, searchIdx := 0, presSeen := false, waitCnt := 0, rdBit := false,
           trueBit := false, chosen := false }

/-- `s` after a command accepted with the byte `d` has ended with the code `e`: STATUS, CMD_DATA and SEQ
(60_exceptions.md R146, R148, R149). -/
def ended (d : Byte) (e : ErrCode) (s : State) : State :=
  { s with busy := false, done := true, err := e, rej := false, cmdData := d, seq := .idle }

/-- The clears at acceptance (10_state.md R26, R27). -/
def acceptClears : Instr → State → State
  | .readScratchpad _, s => { s with spValid := false }
  | .readSensor _, s => { s with spValid := false, sensorValid := false }
  | _, s => s

/-! ### Lengths -/

/-- A write slot (40_bus_primitives.md R85). -/
def slotTicks (c : Config) : Nat := c.tWslot + c.tRec

/-- The RESET sequence when the line is first high on its w-th tick (40_bus_primitives.md R88). -/
def resetTicks (c : Config) (w : Nat) : Nat := w + c.tRstl + c.tPdwin

/-- MATCH_ADDRESS (41_bytes_and_select.md R98): nine bytes. -/
def matchTicks (c : Config) : Nat := 9 * (8 * slotTicks c)

/-- One bit of the search: two read slots and a write slot (42_search.md R113). -/
def searchBitTicks (c : Config) : Nat := 2 * c.tRslot + slotTicks c

/-- The ticks of SEARCH_FIRST before its first bit (42_search.md R111). -/
def searchBase (c : Config) (w : Nat) : Nat := resetTicks c w + 8 * slotTicks c

/-- The ticks of the scratchpad read before its first byte (44_scratchpad.md R130). -/
def spBase (c : Config) (w : Nat) : Nat := resetTicks c w + matchTicks c + 8 * slotTicks c

/-- The tick of a read slot on which the line is sampled, counted from 0 (40_bus_primitives.md R87). -/
def sampleTick (c : Config) : Nat := c.tRl + c.tRs

/-! ### The line -/

/-- WAIT_HIGH lasts `w` ticks: the first high level is on its w-th tick (40_bus_primitives.md R83). -/
def highAfter (line : Nat → Bool) (m w : Nat) : Prop :=
  1 ≤ w ∧ w ≤ m ∧ (∀ j, j + 1 < w → line j = false) ∧ line (w - 1) = true

/-- A device answers in the presence window (40_bus_primitives.md R84): some tick of it reads low. -/
def presence (c : Config) (line : Nat → Bool) (w : Nat) : Prop :=
  ∃ j, j < c.tPdwin ∧ line (w + c.tRstl + j) = false

/-- `ow_drive_low` on tick `k` of a run of write slots that send `bits` (40_bus_primitives.md R85). -/
def writeWave (c : Config) (bits : Nat → Bool) (k : Nat) : Bool :=
  decide (k % slotTicks c < slotLowTicks c (bits (k / slotTicks c)))

/-- The bits of a sequence of bytes on the line, least significant first (20_memory.md R62). -/
def wireBits (bytes : List Byte) (i : Nat) : Bool := (bytes.getD (i / 8) 0).getLsbD (i % 8)

/-- `ow_drive_low` on tick `k` of the RESET sequence (40_bus_primitives.md R88). -/
def resetWave (c : Config) (w k : Nat) : Bool := decide (w ≤ k ∧ k < w + c.tRstl)

/-- The bytes MATCH_ADDRESS sends (41_bytes_and_select.md R98). -/
def matchBytes (s : State) : List Byte := s.cfg.cmdMatchRom :: romBytes s.romAddr

/-! ### Commands -/

/-- The five commands that begin with the RESET sequence (60_exceptions.md R142, 70_reset_and_hazards.md R167). -/
def beginsWithReset : Instr → Bool
  | .reset _ => true
  | .sendCommand _ => true
  | .searchFirst _ => true
  | .readScratchpad _ => true
  | .readSensor _ => true
  | .writeBit _ => false
  | .readBit _ => false
  | .writeByte _ => false
  | .readByte _ => false
  | .matchAddress _ => false
  | .crcClear _ => false
  | .crcFeed _ => false
  | .crcCheck _ => false
  | .checkAddr _ => false

/-- `ow_drive_low` on tick `k` of a command that begins with RESET and then sends `bytes`. -/
def resetThenBytes (c : Config) (w : Nat) (bytes : List Byte) (k : Nat) : Bool :=
  if k < resetTicks c w then resetWave c w k else writeWave c (wireBits bytes) (k - resetTicks c w)

/-- The ticks of a read slot from its start on which the line is driven (40_bus_primitives.md R87). -/
def readWave (c : Config) (k : Nat) : Bool := decide (k % c.tRslot < c.tRl)

/-- `ow_drive_low` on tick `k` of the 64 bits of a search that chooses the bits of `a` (42_search.md R113). -/
def searchBitsWave (c : Config) (a : BitVec 64) (k : Nat) : Bool :=
  if k % searchBitTicks c < 2 * c.tRslot then readWave c (k % searchBitTicks c)
  else decide (k % searchBitTicks c - 2 * c.tRslot < slotLowTicks c (a.getLsbD (k / searchBitTicks c)))

/-- `ow_drive_low` on tick `k` of SEARCH_FIRST when it chooses the bits of `a` (42_search.md R113). -/
def searchWave (c : Config) (w : Nat) (a : BitVec 64) (k : Nat) : Bool :=
  if k < searchBase c w then resetThenBytes c w [c.cmdSearchRom] k else searchBitsWave c a (k - searchBase c w)

/-- `ow_drive_low` on tick `k` of a scratchpad read (44_scratchpad.md R127). -/
def spWave (s : State) (w k : Nat) : Bool :=
  if k < spBase s.cfg w then resetThenBytes s.cfg w (matchBytes s ++ [s.cfg.cmdReadScratchpad]) k
  else readWave s.cfg (k - spBase s.cfg w)

/-- The bit `pair_decide` chooses at position `i` of a search whose RESET waits `w` ticks (42_search.md R113, R114). -/
def searchPair (c : Config) (line : Nat → Bool) (w i : Nat) : Option Bool :=
  pairDecide c.searchPairMap (line (searchBase c w + i * searchBitTicks c + sampleTick c))
    (line (searchBase c w + i * searchBitTicks c + c.tRslot + sampleTick c))

/-- The CRC over the first `n` bits of an address, fed from bit 0 (42_search.md R115). -/
def crcOfBits (a : BitVec 64) (n : Nat) : Byte := (List.range n).foldl (fun c i => crc8Step c (a.getLsbD i)) 0

/-- The bytes a scratchpad read receives: bit `i` of byte `k` is the sample of its slot (44_scratchpad.md R127). -/
def spReceived (c : Config) (line : Nat → Bool) (w : Nat) (v : Vector Byte 9) : Prop :=
  ∀ (k : Fin 9) (i : Fin 8), v[k].getLsbD i = line (spBase c w + (8 * k.val + i.val) * c.tRslot + sampleTick c)

/-- How the command `i`, accepted from `s` in the state `t`, ends when its RESET sequence fails (40_bus_primitives.md R83,
R84, R88): after T_WAIT_HIGH_MAX low ticks, and after a presence window without a low. Nothing is sent. -/
def resetFails (i : Instr) (s t : State) : Prop :=
  ∀ line : Nat → Bool,
    ((∀ j, j < s.cfg.tWaitHighMax → line j = false) →
      busyFor line s.cfg.tWaitHighMax t ∧ (∀ k, k < s.cfg.tWaitHighMax → drive (ticks line k t) = false) ∧
        (ticks line s.cfg.tWaitHighMax t).visible = (ended i.data .busNotHighTimeout (acceptClears i s)).visible) ∧
    ∀ w, highAfter line s.cfg.tWaitHighMax w → ¬ presence s.cfg line w →
      busyFor line (resetTicks s.cfg w) t ∧ (∀ k, k < resetTicks s.cfg w → drive (ticks line k t) = resetWave s.cfg w k) ∧
        (ticks line (resetTicks s.cfg w) t).visible = (ended i.data .deviceNotPresent (acceptClears i s)).visible

/-- The opcode of the running command. -/
def runningOp (s : State) : Option (BitVec 4) :=
  match s.seq with
  | .idle => none
  | .running op _ => some op

/-! ### The invariant -/

/-- Which commands may write what (10_state.md R42): the assignments that stand in the list of the command `op`. -/
def actAllowed (op : BitVec 4) : Act → Bool
  | .loadShift _ => true
  | .shiftOut => true
  | .clearShift => true
  | .shiftIn => true
  | .clearPres => true
  | .rxBit => op == 0x3
  | .rxByte => op == 0x5
  | .crcClear => op == 0x8 || op == 0x9 || op == 0xD || op == 0xE
  | .crcFeed => op == 0xA
  | .crcAddr => op == 0xC
  | .crcCheck => op == 0x8 || op == 0xB || op == 0xC || op == 0xD || op == 0xE
  | .searchInit => op == 0x8
  | .latchTrue => op == 0x8
  | .searchDecide => op == 0x8
  | .searchStep => op == 0x8
  | .romFromAcc => op == 0x8
  | .spStore _ => op == 0xD || op == 0xE
  | .spValid => op == 0xD || op == 0xE
  | .sensorWrite => op == 0xE

/-- The checks that can raise an error. -/
def actRaises : Act → Bool
  | .crcCheck => true
  | .searchDecide => true
  | .sensorWrite => true
  | _ => false

/-- The writes a command makes only in its completing step (60_exceptions.md R149). -/
def actFinal : Act → Bool
  | .rxBit => true
  | .rxByte => true
  | .romFromAcc => true
  | .sensorWrite => true
  | _ => false

/-- A remaining list of the command `op`: every assignment is the command's own, a check that can raise follows a
released tick (60_exceptions.md R148), a completing write stands last (R149), and the list ends with the line released
(40_bus_primitives.md R92). `driven` says whether the tick before the list may be driven. -/
def planOk (op : BitVec 4) : Bool → List Seg → Bool
  | driven, [] => !driven
  | driven, .act a :: r => actAllowed op a && (!actRaises a || !driven) && (!actFinal a || r.isEmpty) && planOk op driven r
  | _, .low _ :: r => planOk op true r
  | _, .slotLow _ :: r => planOk op true r
  | driven, .slotRel _ :: r => planOk op driven r
  | driven, .rel n :: r => planOk op (driven && n == 0) r
  | driven, .relS n :: r => planOk op (driven && n == 0) r
  | driven, .waitHigh n :: r => planOk op (driven && n == 0) r
  | driven, .pres n :: r => planOk op (driven && n == 0) r

/-- SEQ stands in a segment with a tick left, of a list the command may have. -/
def seqOk (s : State) : Prop :=
  match s.seq with
  | .idle => True
  | .running _ [] => False
  | .running op (g :: rest) => s.waitCnt < segTicks s g ∧ planOk op false (g :: rest) = true

/-- The invariant of the block (10_state.md R24, R25, R45, 60_exceptions.md R145), for parameters in range. -/
structure BlockInv (s : State) : Prop where
  /-- 00_scope.md R8. -/
  params : s.cfg.inRange = true
  /-- BUSY = 1 exactly when SEQ ≠ Idle (10_state.md R45). -/
  busy_iff : s.busy = true ↔ s.seq ≠ .idle
  /-- While a command runs DONE is 0 and ERR reads 0 (10_state.md R24, R25). -/
  quiet : s.busy = true → s.done = false ∧ s.err = .none
  /-- The block never writes code 6 (60_exceptions.md R145). -/
  noFamilyCode : s.err ≠ .familyCodeMismatch
  /-- SEQ is a position in a command's list (10_state.md R45). -/
  position : seqOk s

/-- An upper bound of the ticks of a segment that does not depend on the data. -/
def segBudget (c : Config) : Seg → Nat
  | .low n => n
  | .rel n => n
  | .relS n => n
  | .waitHigh m => m
  | .pres n => n
  | .slotLow _ => c.tW1l + c.tW0l
  | .slotRel _ => c.tWslot
  | .act _ => 0

/-- An upper bound of the ticks left to a running command. -/
def ticksLeft (s : State) : Nat :=
  match s.seq with
  | .idle => 0
  | .running _ prog => (prog.map (segBudget s.cfg)).sum - s.waitCnt

/-! ### The host's duties -/

/-- Wait for completion (70_reset_and_hazards.md R169): CMD and ROM_ADDR are written, and result registers read, only
while BUSY = 0; and every access has 32 bits (20_memory.md R65). -/
def respectsWait (s : State) : Event → Bool
  | .hostWrite off _ =>
    match regOf off with
    | .cmd => !s.busy
    | .romAddrLo => !s.busy
    | .romAddrHi => !s.busy
    | _ => true
  | .hostRead off => !(s.busy && (regOf off).isResult)
  | .hostNarrow _ _ => false
  | .clock _ => true
  | .rstPin _ => true
  | .hardReset => true

/-- The commands a host may issue first after a command was cut short: those that begin with RESET, and those that do
not use the bus (70_reset_and_hazards.md R167). -/
def allowedAfterCut (i : Instr) : Bool :=
  beginsWithReset i ||
    match i with
    | .crcClear _ => true
    | .crcFeed _ => true
    | .crcCheck _ => true
    | .checkAddr _ => true
    | _ => false

/-- No command between the two writes of SET_ADDR (70_reset_and_hazards.md R172); `half` says that ROM_ADDR_LO is
written and ROM_ADDR_HI not yet. -/
def addrPairsWhole : Bool → List Event → Bool
  | half, [] => !half
  | half, .hostWrite off _ :: es =>
    match regOf off with
    | .romAddrLo => addrPairsWhole true es
    | .romAddrHi => addrPairsWhole false es
    | .cmd => !half && addrPairsWhole half es
    | _ => addrPairsWhole half es
  | half, _ :: es => addrPairsWhole half es

/-- The conversion wait of the host in milliseconds (70_reset_and_hazards.md R170): that of the RES of the last
successful READ_SENSOR, and the longest of the table before any (92_eei_decisions.md D39). -/
def conversionWaitMs (c : Config) (lastRes : Option (BitVec 2)) : Nat :=
  match lastRes.bind fun r => c.resTable.find? fun row => row.code == r with
  | some row => row.maxMs
  | none => (c.resTable.map (·.maxMs)).foldl max 0

end Sys2Proof.Machine
end

