-- ==== Sys2Proof/Certificates/Slice0/Obligations.lean ====
section
/-! DEFINITION. The statements for the provers. Unless said otherwise a statement holds for every State, reached or not,
and for every choice of the parameters in the ranges of 00_scope.md R8. A command's statement says what the acceptance
answers and what the machine holds when the command ends, and by `visible` what it leaves unchanged: every register that
is not named. That `visible` also compares `hostRdata`, held between reads, is the model's choice (assumption 9). -/

open Sys2Proof Sys2Proof.Machine

/-! ### Encoding -/

/-- 30_encoding.md R70, R72, R75: decoding inverts encoding, in both directions, over all commands and all words. -/
def Obligations.DecodeAndEncodeAreInverse : Prop :=
  (∀ i : Instr, decode (encode i) = .ok i) ∧ ∀ (w : Word) (i : Instr), decode w = .ok i → encode i = w

/-- 30_encoding.md R73, R74: a word is illegal exactly when a reserved bit is set or OP is 0x0 or 0xF. -/
def Obligations.IllegalWordsAreTheReservedOnes : Prop :=
  ∀ w : Word, (∃ e, decode w = .error e) ↔
    (rsv0Field w ≠ 0 ∨ rsv1Field w ≠ 0 ∨ opField w = 0x0 ∨ opField w = 0xF)

/-- 30_encoding.md R79: the example words, in both directions, and the illegal ones. -/
def Obligations.ExampleWordsDecode : Prop :=
  (∀ p ∈ [(0x00000001#32, Instr.reset 0), (0x00000102#32, .writeBit 1), (0x00000002#32, .writeBit 0),
      (0x0000B004#32, .writeByte 0xB0), (0x00004407#32, .sendCommand 0x44), (0x00000008#32, .searchFirst 0),
      (0x0000280A#32, .crcFeed 0x28), (0x0000000E#32, .readSensor 0)], decode p.1 = .ok p.2 ∧ encode p.2 = p.1) ∧
  ∀ w ∈ [0x00000000#32, 0x0000000F#32, 0x00000011#32, 0x00010001#32], ∃ e, decode w = .error e

/-- 30_encoding.md R77, R72: a line with an operand out of range is not encoded; a line that is encoded gives a command in
canonical form; and every line of a command with its operand in range is encoded, as OP with the operand in DATA. -/
def Obligations.AssemblerEncodesOnlyOperandsInRange : Prop :=
  (∀ l : AsmLine, (l.wellFormed = false → l.assemble = none) ∧ ∀ i, l.assemble = some i → i.canonical = true) ∧
  (∀ p ∈ [(AsmLine.reset, 0x1#32), (.readBit, 0x3#32), (.readByte, 0x5#32), (.matchAddress, 0x6#32),
      (.searchFirst, 0x8#32), (.crcClear, 0x9#32), (.crcCheck, 0xB#32), (.checkAddr, 0xC#32),
      (.readScratchpad, 0xD#32), (.readSensor, 0xE#32)], p.1.assemble.map encode = some p.2) ∧
  (∀ imm : Nat, imm ≤ 1 →
    (AsmLine.writeBit imm).assemble.map encode = some (BitVec.ofNat 32 (0x100 * imm + 0x2))) ∧
  ∀ imm : Nat, imm ≤ 255 →
    (AsmLine.writeByte imm).assemble.map encode = some (BitVec.ofNat 32 (0x100 * imm + 0x4)) ∧
    (AsmLine.sendCommand imm).assemble.map encode = some (BitVec.ofNat 32 (0x100 * imm + 0x7)) ∧
    (AsmLine.crcFeed imm).assemble.map encode = some (BitVec.ofNat 32 (0x100 * imm + 0xA))

/-- 30_encoding.md R78, 10_state.md R34: SET_ADDR is two host writes, and from an idle block they leave ROM_ADDR at the
address and every other register as it was. -/
def Obligations.SetAddrWritesTheAddress : Prop :=
  ∀ (s : State) (a : Nat), Pseudo.wellFormed (.setAddr a) = true → s.busy = false → s.rstN = true →
    Pseudo.expand s.cfg (.setAddr a) = [.wr 0x14 (a % 2 ^ 32), .wr 0x18 (a / 2 ^ 32)] ∧
    ∃ t, hostWrite 0x14 (BitVec.ofNat 32 (a % 2 ^ 32)) s = .next t ∧
      hostWrite 0x18 (BitVec.ofNat 32 (a / 2 ^ 32)) t = .next { s with romAddr := BitVec.ofNat 64 a }

/-! ### The step -/

/-- 10_state.md R21, 20_memory.md R60: when the next input is a host write to CMD of a word that decodes to `i`, the step
is `exec i` on the state with that input taken off; the low two bits of the offset are ignored. -/
def Obligations.StepRunsTheDecodedCommand : Prop :=
  ∀ (s : State) (off : BitVec 6) (w : Word) (i : Instr) (rest : List Event), s.events = .hostWrite off w :: rest →
    off.toNat < 4 → s.rstN = true → decode w = .ok i → step s = exec i { s with events := rest }

/-- 00_scope.md R6, 20_memory.md R60, 70_reset_and_hazards.md R160: which input a step takes. With no input listed it is a
clock edge whose line level is a free value (assumption 2); the model's own field `draws` advances. -/
def Obligations.StepTakesTheOldestInput : Prop :=
  ∀ s : State,
    (∀ line rest, s.events = .clock line :: rest → step s = .next (clockEdge line { s with events := rest })) ∧
    (∀ off v rest, s.events = .hostWrite off v :: rest → step s = hostWrite off v { s with events := rest }) ∧
    (∀ off rest, s.events = .hostRead off :: rest → step s = .next (hostRead off { s with events := rest })) ∧
    (∀ level rest, s.events = .rstPin level :: rest → step s = .next { s with events := rest, rstN := level }) ∧
    (s.events = [] → ∃ line, step s = .next (clockEdge line { s with draws := s.draws + 1 }))

/-- 30_encoding.md R76: an illegal word, idle and busy. CMD_DATA is latched as for every accepted word
(60_exceptions.md R146; assumption 11). -/
def Obligations.IllegalWordRaisesCodeSeven : Prop :=
  ∀ (s : State) (w : Word) (rest : List Event), s.events = .hostWrite 0 w :: rest → s.rstN = true →
    (∃ e, decode w = .error e) →
    (s.busy = false → step s = .next { s with events := rest, done := true, err := .illegalCommand, rej := false,
                                               busy := false, seq := .idle, cmdData := dataField w }) ∧
    (s.busy = true → step s = .next { s with events := rest, rej := true })

/-- 60_exceptions.md R147: while BUSY every command, and every word written to CMD, is refused: only REJ changes. -/
def Obligations.CommandWhileBusyOnlySetsRej : Prop :=
  ∀ s : State, s.busy = true →
    (∀ i : Instr, exec i s = .next { s with rej := true }) ∧
    (s.rstN = true → ∀ w : Word, hostWrite 0 w s = .next { s with rej := true })

/-- 60_exceptions.md R146: the acceptance of a word written to CMD while BUSY = 0, legal or illegal; the clears are those
of 10_state.md R26, R27. SEQ is in the command's list, no tick spent; every register not named keeps its value. That an
illegal word is latched into CMD_DATA too is assumption 11. -/
def Obligations.AcceptanceOfEveryWord : Prop :=
  ∀ (s : State) (w : Word), s.cfg.inRange = true → s.busy = false → s.rstN = true →
    ∃ t, hostWrite 0 w s = .next t ∧
      match decode w with
      | .ok i => runningOp t = some i.opcode ∧ seqOk t ∧ t.waitCnt = 0 ∧
          t.visible = { acceptClears i s with busy := true, done := false, err := .none, rej := false,
                                              cmdData := dataField w, seq := t.seq }.visible
      | .error _ => t.visible = (ended (dataField w) .illegalCommand s).visible

/-- 20_memory.md R65: a narrower access is refused by name. -/
def Obligations.NarrowAccessIsRefused : Prop :=
  ∀ (s : State) (off : BitVec 6) (bytes : Nat) (rest : List Event), s.events = .hostNarrow off bytes :: rest →
    step s = .refused (.narrowAccess off bytes)

/-! ### Bus primitives (40_bus_primitives.md) -/

/-- 40_bus_primitives.md R88: RESET, its two errors, its duration and the line, for every DATA byte. -/
def Obligations.ResetCommand : Prop :=
  ∀ (s : State) (d : Byte), s.cfg.inRange = true → s.busy = false →
    ∃ t, exec (.reset d) s = .next t ∧ opField (encode (.reset d)) = 0x1 ∧ resetFails (.reset d) s t ∧
      ∀ (line : Nat → Bool) (w : Nat), highAfter line s.cfg.tWaitHighMax w → presence s.cfg line w →
        busyFor line (resetTicks s.cfg w) t ∧
        (∀ k, k < resetTicks s.cfg w → drive (ticks line k t) = resetWave s.cfg w k) ∧
        (ticks line (resetTicks s.cfg w) t).visible = (ended d .none s).visible

/-- 40_bus_primitives.md R89, R85: WRITE_BIT sends DATA[0] in one write slot, whatever the line reads. -/
def Obligations.WriteBitCommand : Prop :=
  ∀ (s : State) (d : Byte), s.cfg.inRange = true → s.busy = false →
    ∃ t, exec (.writeBit d) s = .next t ∧ opField (encode (.writeBit d)) = 0x2 ∧
      ∀ line : Nat → Bool, busyFor line (slotTicks s.cfg) t ∧
        (∀ k, k < slotTicks s.cfg → drive (ticks line k t) = decide (k < slotLowTicks s.cfg (d.getLsbD 0))) ∧
        (ticks line (slotTicks s.cfg) t).visible = (ended d .none s).visible

/-- 40_bus_primitives.md R90, R87: READ_BIT takes the sample of tick T_RL + T_RS into RX_DATA. -/
def Obligations.ReadBitCommand : Prop :=
  ∀ (s : State) (d : Byte), s.cfg.inRange = true → s.busy = false →
    ∃ t, exec (.readBit d) s = .next t ∧ opField (encode (.readBit d)) = 0x3 ∧
      ∀ line : Nat → Bool, busyFor line s.cfg.tRslot t ∧
        (∀ k, k < s.cfg.tRslot → drive (ticks line k t) = decide (k < s.cfg.tRl)) ∧
        (ticks line s.cfg.tRslot t).visible =
          (ended d .none { s with rxData := (BitVec.ofBool (line (sampleTick s.cfg))).setWidth 8 }).visible

/-! ### Bytes and select (41_bytes_and_select.md) -/

/-- 41_bytes_and_select.md R96: WRITE_BYTE sends DATA in eight write slots, least significant bit first. -/
def Obligations.WriteByteCommand : Prop :=
  ∀ (s : State) (d : Byte), s.cfg.inRange = true → s.busy = false →
    ∃ t, exec (.writeByte d) s = .next t ∧ opField (encode (.writeByte d)) = 0x4 ∧
      ∀ line : Nat → Bool, busyFor line (8 * slotTicks s.cfg) t ∧
        (∀ k, k < 8 * slotTicks s.cfg → drive (ticks line k t) = writeWave s.cfg (fun i => d.getLsbD i) k) ∧
        (ticks line (8 * slotTicks s.cfg) t).visible = (ended d .none s).visible

/-- 41_bytes_and_select.md R97: READ_BYTE leaves in bit i of RX_DATA the sample of its i-th read slot. -/
def Obligations.ReadByteCommand : Prop :=
  ∀ (s : State) (d : Byte), s.cfg.inRange = true → s.busy = false →
    ∃ t, exec (.readByte d) s = .next t ∧ opField (encode (.readByte d)) = 0x5 ∧
      ∀ line : Nat → Bool, busyFor line (8 * s.cfg.tRslot) t ∧
        (∀ k, k < 8 * s.cfg.tRslot → drive (ticks line k t) = readWave s.cfg k) ∧
        ∃ v : Byte, (∀ i, i < 8 → v.getLsbD i = line (i * s.cfg.tRslot + sampleTick s.cfg)) ∧
          (ticks line (8 * s.cfg.tRslot) t).visible = (ended d .none { s with rxData := v }).visible

/-- 41_bytes_and_select.md R98: MATCH_ADDRESS sends the match ROM byte and the address, byte 0 first, unchecked. -/
def Obligations.MatchAddressCommand : Prop :=
  ∀ (s : State) (d : Byte), s.cfg.inRange = true → s.busy = false →
    ∃ t, exec (.matchAddress d) s = .next t ∧ opField (encode (.matchAddress d)) = 0x6 ∧
      ∀ line : Nat → Bool, busyFor line (matchTicks s.cfg) t ∧
        (∀ k, k < matchTicks s.cfg → drive (ticks line k t) = writeWave s.cfg (wireBits (matchBytes s)) k) ∧
        (ticks line (matchTicks s.cfg) t).visible = (ended d .none s).visible

/-- 41_bytes_and_select.md R99: SEND_COMMAND is RESET, MATCH_ADDRESS and the byte DATA; when the reset fails nothing is
sent. -/
def Obligations.SendCommandCommand : Prop :=
  ∀ (s : State) (d : Byte), s.cfg.inRange = true → s.busy = false →
    ∃ t, exec (.sendCommand d) s = .next t ∧ opField (encode (.sendCommand d)) = 0x7 ∧ resetFails (.sendCommand d) s t ∧
      ∀ (line : Nat → Bool) (w : Nat), highAfter line s.cfg.tWaitHighMax w → presence s.cfg line w →
        busyFor line (spBase s.cfg w) t ∧
        (∀ k, k < spBase s.cfg w → drive (ticks line k t) = resetThenBytes s.cfg w (matchBytes s ++ [d]) k) ∧
        (ticks line (spBase s.cfg w) t).visible = (ended d .none s).visible

/-! ### Search (42_search.md) -/

/-- 42_search.md R114: `pair_decide`, both maps. -/
def Obligations.PairDecideTable : Prop :=
  (∀ m, pairDecide m false true = some false ∧ pairDecide m true false = some true) ∧
  pairDecide .wiredAnd false false = some false ∧ pairDecide .wiredAnd true true = none ∧
  pairDecide .asTabulated false false = none ∧ pairDecide .asTabulated true true = some false

/-- 42_search.md R113, R115, R116: SEARCH_FIRST. When every pair chooses a bit of `a`, the search sends those bits back
and ends with ROM_ADDR = a and CRC = 0, or, when the residue over `a` is not 0, with code 4, ROM_ADDR unchanged and the
residue in CRC. At the first pair that means no response it ends with code 3, ROM_ADDR unchanged. -/
def Obligations.SearchFirstCommand : Prop :=
  ∀ (s : State) (d : Byte), s.cfg.inRange = true → s.busy = false →
    ∃ t, exec (.searchFirst d) s = .next t ∧ opField (encode (.searchFirst d)) = 0x8 ∧ resetFails (.searchFirst d) s t ∧
      ∀ (line : Nat → Bool) (w : Nat) (a : BitVec 64), highAfter line s.cfg.tWaitHighMax w → presence s.cfg line w →
        ((∀ i, i < 64 → searchPair s.cfg line w i = some (a.getLsbD i)) →
          busyFor line (searchBase s.cfg w + 64 * searchBitTicks s.cfg) t ∧
          (∀ k, k < searchBase s.cfg w + 64 * searchBitTicks s.cfg →
            drive (ticks line k t) = searchWave s.cfg w a k) ∧
          (ticks line (searchBase s.cfg w + 64 * searchBitTicks s.cfg) t).visible =
            (if crc8 (romBytes a) = 0 then ended d .none { s with crc := 0, romAddr := a }
             else ended d .checksumFailed { s with crc := crc8 (romBytes a) }).visible) ∧
        ∀ i, i < 64 → (∀ j, j < i → searchPair s.cfg line w j = some (a.getLsbD j)) → searchPair s.cfg line w i = none →
          busyFor line (searchBase s.cfg w + i * searchBitTicks s.cfg + 2 * s.cfg.tRslot) t ∧
          (∀ k, k < searchBase s.cfg w + i * searchBitTicks s.cfg + 2 * s.cfg.tRslot →
            drive (ticks line k t) = searchWave s.cfg w a k) ∧
          (ticks line (searchBase s.cfg w + i * searchBitTicks s.cfg + 2 * s.cfg.tRslot) t).visible =
            (ended d .noResponseToSearch { s with crc := crcOfBits a i }).visible

/-! ### CRC (43_crc8.md) -/

/-- 43_crc8.md R122: CRC_CLEAR, one released tick. -/
def Obligations.CrcClearCommand : Prop :=
  ∀ (s : State) (d : Byte) (line : Bool), s.busy = false →
    ∃ t, exec (.crcClear d) s = .next t ∧ opField (encode (.crcClear d)) = 0x9 ∧ t.busy = true ∧ drive t = false ∧
      (tick t line).visible = (ended d .none { s with crc := 0 }).visible

/-- 43_crc8.md R123: CRC_FEED, one released tick. -/
def Obligations.CrcFeedCommand : Prop :=
  ∀ (s : State) (d : Byte) (line : Bool), s.busy = false →
    ∃ t, exec (.crcFeed d) s = .next t ∧ opField (encode (.crcFeed d)) = 0xA ∧ t.busy = true ∧ drive t = false ∧
      (tick t line).visible = (ended d .none { s with crc := crc8Byte s.crc d }).visible

/-- 43_crc8.md R124: CRC_CHECK, one released tick; CRC is not changed. -/
def Obligations.CrcCheckCommand : Prop :=
  ∀ (s : State) (d : Byte) (line : Bool), s.busy = false →
    ∃ t, exec (.crcCheck d) s = .next t ∧ opField (encode (.crcCheck d)) = 0xB ∧ t.busy = true ∧ drive t = false ∧
      (tick t line).visible = (ended d (if s.crc = 0 then .none else .checksumFailed) s).visible

/-- 43_crc8.md R125: CHECK_ADDR, one released tick; the residue of the address is left in CRC. -/
def Obligations.CheckAddrCommand : Prop :=
  ∀ (s : State) (d : Byte) (line : Bool), s.busy = false →
    ∃ t, exec (.checkAddr d) s = .next t ∧ opField (encode (.checkAddr d)) = 0xC ∧ t.busy = true ∧ drive t = false ∧
      (tick t line).visible =
        (ended d (if crc8 (romBytes s.romAddr) = 0 then .none else .checksumFailed)
          { s with crc := crc8 (romBytes s.romAddr) }).visible

/-- 43_crc8.md R120: the rule's examples. -/
def Obligations.CrcExamples : Prop :=
  crc8 [] = 0x00 ∧ crc8 [0x00] = 0x00 ∧ crc8 [0x01] = 0x5E ∧ crc8 [0x80] = 0x8C ∧ crc8 [0xFF] = 0x35 ∧ crc8 [0x28] = 0xE1 ∧
  crc8 [0x31, 0x32, 0x33, 0x34, 0x35, 0x36, 0x37, 0x38, 0x39] = 0xA1

/-- 43_crc8.md R121: a sequence followed by its own crc8 passes, and so do eight zero bytes and the zero address. -/
def Obligations.SequenceWithItsCrcPasses : Prop :=
  (∀ ds : List Byte, crc8 (ds ++ [crc8 ds]) = 0) ∧ crc8 (List.replicate 8 0) = 0 ∧ crc8 (romBytes 0) = 0

/-- 43_crc8.md R126: flipping any one bit of any byte of a sequence whose last byte is `crc8` of the bytes before it makes
the residue nonzero. -/
def Obligations.SingleBitErrorIsDetected : Prop :=
  ∀ (ds : List Byte) (k : Nat) (i : Nat), k < (ds ++ [crc8 ds]).length → i < 8 →
    crc8 ((ds ++ [crc8 ds]).modify k (fun b => b ^^^ (1#8 <<< i))) ≠ 0

/-! ### Scratchpad and sensor (44_scratchpad.md) -/

/-- 44_scratchpad.md R130, R127, R128: READ_SCRATCHPAD. `v` is the nine bytes received; they stay in SP whether or not
their residue is 0. -/
def Obligations.ReadScratchpadCommand : Prop :=
  ∀ (s : State) (d : Byte), s.cfg.inRange = true → s.busy = false →
    ∃ t, exec (.readScratchpad d) s = .next t ∧ opField (encode (.readScratchpad d)) = 0xD ∧ t.spValid = false ∧
      resetFails (.readScratchpad d) s t ∧
      ∀ (line : Nat → Bool) (w : Nat) (v : Vector Byte 9), highAfter line s.cfg.tWaitHighMax w →
        presence s.cfg line w → spReceived s.cfg line w v →
        busyFor line (spBase s.cfg w + 9 * (8 * s.cfg.tRslot)) t ∧
        (∀ k, k < spBase s.cfg w + 9 * (8 * s.cfg.tRslot) → drive (ticks line k t) = spWave s w k) ∧
        (ticks line (spBase s.cfg w + 9 * (8 * s.cfg.tRslot)) t).visible =
          (if crc8 v.toList = 0 then ended d .none { s with sp := v, crc := 0, spValid := true }
           else ended d .checksumFailed { s with sp := v, crc := crc8 v.toList, spValid := false }).visible

/-- 44_scratchpad.md R131, R132, R133, R138: READ_SENSOR. The checks are made in the order CRC, resolution; the sensor
outputs are written only when both pass. -/
def Obligations.ReadSensorCommand : Prop :=
  ∀ (s : State) (d : Byte), s.cfg.inRange = true → s.busy = false →
    ∃ t, exec (.readSensor d) s = .next t ∧ opField (encode (.readSensor d)) = 0xE ∧ t.spValid = false ∧
      t.sensorValid = false ∧ resetFails (.readSensor d) s t ∧
      ∀ (line : Nat → Bool) (w : Nat) (v : Vector Byte 9), highAfter line s.cfg.tWaitHighMax w →
        presence s.cfg line w → spReceived s.cfg line w v →
        busyFor line (spBase s.cfg w + 9 * (8 * s.cfg.tRslot)) t ∧
        (∀ k, k < spBase s.cfg w + 9 * (8 * s.cfg.tRslot) → drive (ticks line k t) = spWave s w k) ∧
        (ticks line (spBase s.cfg w + 9 * (8 * s.cfg.tRslot)) t).visible =
          (if crc8 v.toList = 0 then
             match resDecode s.cfg.resTable v[4] with
             | some r => ended d .none { s with sp := v, crc := 0, spValid := true, sensorValid := true,
                                                 tempRaw := (v[1] ++ v[0] : BitVec 16), alarmH := v[2], alarmL := v[3],
                                                 res := r }
             | none => ended d .invalidResolution { s with sp := v, crc := 0, spValid := true, sensorValid := false }
           else ended d .checksumFailed { s with sp := v, crc := crc8 v.toList, spValid := false,
                                                 sensorValid := false }).visible

/-- 44_scratchpad.md R133: `res_decode` with the default table, over all 256 bytes, and the error it raises. -/
def Obligations.ResolutionDecodesFourPatterns : Prop :=
  ∀ (s : State) (b : Byte), s.cfg.resTable = defaultResTable → s.sp[4] = b →
    resDecode s.cfg.resTable b =
      (if b = 0x1F then some 0 else if b = 0x3F then some 1 else if b = 0x5F then some 2 else if b = 0x7F then some 3
       else none) ∧
    (runAct .sensorWrite s).2 =
      (if b = 0x1F ∨ b = 0x3F ∨ b = 0x5F ∨ b = 0x7F then none else some .invalidResolution)

/-- 44_scratchpad.md R134, 95_test_vectors.md L1.2: the consumer's temperature for 0x0550 and 0xFFFE at 12 bits. -/
def Obligations.ConsumerTemperatureExamples : Prop :=
  consumerTemp { State.reset with tempRaw := 0x0550, res := 3 } = some 85 ∧
  consumerTemp { State.reset with tempRaw := 0xFFFE, res := 3 } = some (-1 / 8)

/-! ### Durations (70_reset_and_hazards.md) -/

/-- 70_reset_and_hazards.md R174: the lengths of the command statements with the default parameters, in ticks; and the CRC
commands and CHECK_ADDR take one tick whatever the parameters, ending with or without an error. -/
def Obligations.DefaultDurations : Prop :=
  (∀ w i : Nat, resetTicks defaultConfig w = w + 1008 ∧ defaultConfig.tWaitHighMax = 250 ∧ slotTicks defaultConfig = 82 ∧
    defaultConfig.tRslot = 70 ∧ 8 * slotTicks defaultConfig = 656 ∧ 8 * defaultConfig.tRslot = 560 ∧
    matchTicks defaultConfig = 5904 ∧ spBase defaultConfig w = w + 7568 ∧
    searchBase defaultConfig w + 64 * searchBitTicks defaultConfig = w + 15872 ∧
    searchBase defaultConfig w + i * searchBitTicks defaultConfig + 2 * defaultConfig.tRslot = w + 1804 + 222 * i ∧
    spBase defaultConfig w + 9 * (8 * defaultConfig.tRslot) = w + 12608) ∧
  ∀ (s : State) (d : Byte) (line : Bool), s.busy = false →
    ∀ i ∈ [Instr.crcClear d, .crcFeed d, .crcCheck d, .checkAddr d],
      ∃ t, exec i s = .next t ∧ t.busy = true ∧ (tick t line).busy = false

/-! ### Registers (10_state.md, 20_memory.md) -/

/-- 10_state.md R29: the read value of STATUS, field by field, and its reserved bits. -/
def Obligations.StatusReadLayout : Prop :=
  ∀ s : State, (regValue s .status).getLsbD 0 = s.busy ∧ (regValue s .status).getLsbD 1 = s.done ∧
    (regValue s .status).extractLsb' 2 2 = 0 ∧ (regValue s .status).extractLsb' 4 3 = s.err.code ∧
    (regValue s .status).getLsbD 7 = false ∧ (regValue s .status).getLsbD 8 = s.spValid ∧
    (regValue s .status).getLsbD 9 = s.sensorValid ∧ (regValue s .status).getLsbD 10 = s.rej ∧
    (regValue s .status).extractLsb' 11 21 = 0

/-- 20_memory.md R61, 10_state.md R33, R36, R38, R39: the packing of the multi-byte registers. -/
def Obligations.RegistersPackLittleEndian : Prop :=
  ∀ s : State,
    (∀ k, (h : k < 4) → (regValue s .romAddrLo).extractLsb' (8 * k) 8 = romByte s.romAddr ⟨k, by omega⟩ ∧
      (regValue s .romAddrHi).extractLsb' (8 * k) 8 = romByte s.romAddr ⟨k + 4, by omega⟩ ∧
      (regValue s .sp03).extractLsb' (8 * k) 8 = s.sp[k] ∧ (regValue s .sp47).extractLsb' (8 * k) 8 = s.sp[k + 4]) ∧
    (regValue s .sp8).toNat = s.sp[8].toNat ∧ (regValue s .sensorTemp).toInt = s.tempRaw.toInt ∧
    (regValue s .sensorAlarm).extractLsb' 0 8 = s.alarmH ∧ (regValue s .sensorAlarm).extractLsb' 8 8 = s.alarmL ∧
    (regValue s .sensorAlarm).extractLsb' 16 16 = 0 ∧ (regValue s .sensorRes).toNat = s.res.toNat

/-- 10_state.md R20, R31, R32, 20_memory.md R60: which register each offset addresses, its low two bits ignored, and the
read values of RX_DATA and CRC. The other read values are those of `StatusReadLayout`, `CtrlHoldsInterruptEnable` and
`RegistersPackLittleEndian`. -/
def Obligations.RegisterMapAndReadValues : Prop :=
  (∀ p ∈ [(0x00#6, Reg.cmd), (0x04#6, .status), (0x08#6, .ctrl), (0x0C#6, .rxData), (0x10#6, .crc), (0x14#6, .romAddrLo),
      (0x18#6, .romAddrHi), (0x1C#6, .sp03), (0x20#6, .sp47), (0x24#6, .sp8), (0x28#6, .sensorTemp),
      (0x2C#6, .sensorAlarm), (0x30#6, .sensorRes), (0x34#6, .reserved), (0x38#6, .reserved), (0x3C#6, .reserved)],
    ∀ off : BitVec 6, off &&& 0x3C#6 = p.1 → regOf off = p.2) ∧
  ∀ s : State, (regValue s .rxData).extractLsb' 0 8 = s.rxData ∧ (regValue s .rxData).extractLsb' 8 24 = 0 ∧
    (regValue s .crc).extractLsb' 0 8 = s.crc ∧ (regValue s .crc).extractLsb' 8 24 = 0

/-- 20_memory.md R64, R66, R63: a host read changes no register. It is exact but for a result register while BUSY, where
the word is a free value (the model's own field `draws` advances; assumption 8). CMD and the reserved words read 0. -/
def Obligations.HostReadsAreExactUnlessBusyResult : Prop :=
  ∀ (s : State) (off : BitVec 6) (rest : List Event), s.events = .hostRead off :: rest → s.rstN = true →
    ((s.busy = false ∨ (regOf off).isResult = false) →
      step s = .next { s with events := rest, hostRdata := regValue s (regOf off) }) ∧
    ((s.busy = true ∧ (regOf off).isResult = true) →
      ∃ v : Word, step s = .next { s with events := rest, hostRdata := v, draws := s.draws + 1 }) ∧
    (0x34 ≤ off.toNat → regValue s (regOf off) = 0) ∧ (off.toNat < 4 → regValue s (regOf off) = 0)

/-- 10_state.md R24, R25, R28: a host write to STATUS clears DONE when bit 1 is set and changes nothing else. -/
def Obligations.StatusWriteClearsOnlyDone : Prop :=
  ∀ (s : State) (off : BitVec 6) (v : Word), s.rstN = true → 4 ≤ off.toNat → off.toNat < 8 →
    hostWrite off v s = .next { s with done := s.done && !v.getLsbD 1 }

/-- 10_state.md R30: CTRL holds IE in bit 0, also while BUSY; its other bits read 0. -/
def Obligations.CtrlHoldsInterruptEnable : Prop :=
  ∀ (s : State) (off : BitVec 6) (v : Word), s.rstN = true → 8 ≤ off.toNat → off.toNat < 12 →
    hostWrite off v s = .next { s with ie := v.getLsbD 0 } ∧ (regValue s .ctrl).getLsbD 0 = s.ie ∧
      (regValue s .ctrl).extractLsb' 1 31 = 0

/-- 10_state.md R34, R33: a write to ROM_ADDR_LO or ROM_ADDR_HI replaces the four bytes of its word while idle, and only
sets REJ while BUSY. -/
def Obligations.RomAddrWritesReplaceFourBytes : Prop :=
  ∀ (s : State) (v : Word), s.rstN = true →
    (s.busy = false → ∃ t u, hostWrite 0x14 v s = .next t ∧ t = { s with romAddr := t.romAddr } ∧
      hostWrite 0x18 v s = .next u ∧ u = { s with romAddr := u.romAddr } ∧
      ∀ k : Fin 8, romByte t.romAddr k = (if k.val < 4 then v.extractLsb' (8 * k.val) 8 else romByte s.romAddr k) ∧
        romByte u.romAddr k = (if k.val < 4 then romByte s.romAddr k else v.extractLsb' (8 * (k.val - 4)) 8)) ∧
    (s.busy = true → hostWrite 0x14 v s = .next { s with rej := true } ∧
      hostWrite 0x18 v s = .next { s with rej := true })

/-- 20_memory.md R63: a write to a read-only register or to a reserved offset has no effect. -/
def Obligations.ReadOnlyAndReservedWritesAreIgnored : Prop :=
  ∀ (s : State) (off : BitVec 6) (v : Word), (12 ≤ off.toNat ∧ off.toNat < 0x14 ∨ 0x1C ≤ off.toNat) →
    hostWrite off v s = .next s

/-- 60_exceptions.md R150, R148, R149, 30_encoding.md R76: `irq` is DONE and IE. The tick that ends a command, with or
without an error, raises it when IE = 1, and it is low on every tick before; an accepted word drops it, but for an
illegal one, whose DONE is set in the same step; W1C drops it, and CTRL gates it. -/
def Obligations.InterruptFollowsDoneAndEnable : Prop :=
  ∀ s : State, irq s = (s.done && s.ie) ∧
    (∀ line, s.busy = true → (tick s line).busy = false → irq (tick s line) = s.ie) ∧
    (∀ line, BlockInv s → (tick s line).busy = true → irq (tick s line) = false) ∧
    (s.rstN = true → s.cfg.inRange = true → s.busy = false → ∀ w : Word, ∃ t, hostWrite 0 w s = .next t ∧
      irq t = match decode w with
        | .ok _ => false
        | .error _ => s.ie) ∧
    (s.rstN = true → ∀ v : Word,
      (∃ t, hostWrite 4 v s = .next t ∧ irq t = (s.done && !v.getLsbD 1 && s.ie)) ∧
      ∃ t, hostWrite 8 v s = .next t ∧ irq t = (s.done && v.getLsbD 0))

/-! ### Reset (70_reset_and_hazards.md) -/

/-- 70_reset_and_hazards.md R161, R160: from every state, running or not, a hardware reset gives every register its reset
value, releases the line and produces no DONE, no ERR and no interrupt. The pending inputs, the configuration and the
count of free values are the model's own and stay. -/
def Obligations.HardwareResetFromEveryState : Prop :=
  ∀ (s : State) (rest : List Event), s.events = .hardReset :: rest →
    ∃ t, step s = .next t ∧ t.busy = false ∧ t.done = false ∧ t.err = .none ∧ t.spValid = false ∧
      t.sensorValid = false ∧ t.rej = false ∧ t.ie = false ∧ t.rxData = 0 ∧ t.crc = 0 ∧ t.romAddr = 0 ∧
      t.sp = Vector.replicate 9 0 ∧ t.tempRaw = 0 ∧ t.alarmH = 0 ∧ t.alarmL = 0 ∧ t.res = 0 ∧ t.cmdData = 0 ∧
      t.seq = .idle ∧ t.presc = 0 ∧ t.shift = 0 ∧ t.bitCnt = 0 ∧ t.searchAcc = 0 ∧ t.searchIdx = 0 ∧
      t.presSeen = false ∧ t.waitCnt = 0 ∧ drive t = false ∧ irq t = false ∧ (∀ r, regValue t r = 0) ∧
      t.cfg = s.cfg ∧ t.events = rest ∧ t.draws = s.draws

/-- 70_reset_and_hazards.md R160: while `rst_n` = 0, each rising edge of `clk` leaves the reset state, host writes have no
effect and host reads return 0. That `hostRdata` and the pseudocode's locals are 0 in the reset state, and that accesses
are ignored before the first edge, are the model's choices (assumptions 7, 9, 10). -/
def Obligations.HeldInReset : Prop :=
  ∀ (s : State) (off : BitVec 6) (v : Word) (line : Bool), s.rstN = false →
    clockEdge line s = { State.reset with rstN := false, cfg := s.cfg, events := s.events, draws := s.draws } ∧
    hostWrite off v s = .next s ∧ hostRead off s = { s with hostRdata := 0 }

/-- 00_scope.md R5, 10_state.md R43: from PRESC = 0, CLK_PER_US rising edges make exactly one tick, on the last of them;
which edge of the CLK_PER_US it is, is the model's choice (assumption 19). -/
def Obligations.PrescalerMakesOneTick : Prop :=
  ∀ (s : State) (lines : List Bool) (last : Bool), s.rstN = true → s.presc = 0 →
    lines.length + 1 = s.cfg.clkPerUs →
    (lines ++ [last]).foldl (fun s line => clockEdge line s) s = tick s last

/-! ### The sequencer as a whole -/

/-- 10_state.md R19, 60_exceptions.md R157: while SEQ is idle the line is released and a tick does nothing. -/
def Obligations.IdleReleasesTheLine : Prop :=
  ∀ (s : State) (line : Bool), BlockInv s → s.busy = false → drive s = false ∧ tick s line = s

/-- 00_scope.md R7: the value of `line_in` on a driven tick is never read. -/
def Obligations.DrivenTickIgnoresTheLine : Prop :=
  ∀ (s : State) (b1 b2 : Bool), drive s = true → tick s b1 = tick s b2

/-- 60_exceptions.md R148, 40_bus_primitives.md R92: no command ends on a driven tick: the tick of an error and the last
tick of every command are released. -/
def Obligations.NoCommandEndsOnDrivenTick : Prop :=
  ∀ (s : State) (line : Bool), BlockInv s → drive s = true → (tick s line).busy = true

/-- The state after reset meets the invariant. -/
def Obligations.ResetMeetsTheInvariant : Prop := BlockInv State.reset

/-- 10_state.md R24, R25, R45, 60_exceptions.md R145: every step keeps the invariant: BUSY is 1 exactly when SEQ is not
idle, DONE and ERR are 0 while a command runs, ERR is never code 6, SEQ is a position in a command's list, and the
parameters stay in range. -/
def Obligations.EveryStepKeepsTheInvariant : Prop :=
  ∀ s s' : State, BlockInv s → step s = .next s' → BlockInv s'

/-- 10_state.md R42: which running command a tick can let write which register, and 42_search.md R116,
44_scratchpad.md R132: ROM_ADDR and the sensor outputs change only in the completing step of a command without error. That `hostRdata` is held between reads is the model's choice
(assumption 9). -/
def Obligations.OnlyTheOwningCommandWrites : Prop :=
  ∀ (s : State) (line : Bool), BlockInv s →
    ((tick s line).rxData ≠ s.rxData → runningOp s = some 0x3 ∨ runningOp s = some 0x5) ∧
    ((tick s line).crc ≠ s.crc → ∃ op, runningOp s = some op ∧ op ∈ [0x8#4, 0x9#4, 0xA#4, 0xC#4, 0xD#4, 0xE#4]) ∧
    ((tick s line).romAddr ≠ s.romAddr →
      runningOp s = some 0x8 ∧ (tick s line).busy = false ∧ (tick s line).err = .none) ∧
    (((tick s line).sp ≠ s.sp ∨ (tick s line).spValid ≠ s.spValid) → runningOp s = some 0xD ∨ runningOp s = some 0xE) ∧
    (((tick s line).tempRaw ≠ s.tempRaw ∨ (tick s line).alarmH ≠ s.alarmH ∨ (tick s line).alarmL ≠ s.alarmL ∨
        (tick s line).res ≠ s.res ∨ (tick s line).sensorValid ≠ s.sensorValid) →
      runningOp s = some 0xE ∧ (tick s line).busy = false ∧ (tick s line).err = .none) ∧
    (tick s line).ie = s.ie ∧ (tick s line).rej = s.rej ∧ (tick s line).cmdData = s.cmdData ∧
    (tick s line).hostRdata = s.hostRdata ∧ (tick s line).presc = s.presc

/-- 60_exceptions.md R140: a running command ends, whatever the line does, within `ticksLeft`, an upper bound of the ticks
of its remaining list; the block can then accept the next command. The exact lengths are in the command statements. -/
def Obligations.EveryCommandEnds : Prop :=
  ∀ (s : State) (line : Nat → Bool), BlockInv s → (ticks line (ticksLeft s) s).busy = false

/-- 70_reset_and_hazards.md R169, 10_state.md R28: REJ is set only by an access that breaks the host's duty to wait. -/
def Obligations.WaitingHostIsNeverRejected : Prop :=
  ∀ (s s' : State) (e : Event) (rest : List Event), s.events = e :: rest → respectsWait s e = true → s.rej = false →
    step s = .next s' → s'.rej = false

/-- 60_exceptions.md R158: a write to CMD and the tick that completes the running command. After the tick it is accepted,
before it it is refused with REJ, and the running command ends all the same. -/
def Obligations.RaceOfCommandWriteAndCompletingTick : Prop :=
  ∀ (s : State) (line : Bool) (i : Instr), s.busy = true → (tick s line).busy = false →
    exec i s = .next { s with rej := true } ∧ (tick { s with rej := true } line).busy = false ∧
      (tick { s with rej := true } line).rej = true ∧
      ∃ t, exec i (tick s line) = .next t ∧ t.rej = false ∧ t.cmdData = i.data
end

