-- ==== Sys2Proof/Laws/State.lean ====
section
/-! SUPPORT. What each shared update of the state does to each field: one lemma per field, true by `rfl`. -/

namespace Sys2Proof.Machine

variable (s : State)

/-! ### raise -/

@[simp] theorem raise_busy (e : ErrCode) : (raise e s).busy = false := rfl
@[simp] theorem raise_done (e : ErrCode) : (raise e s).done = true := rfl
@[simp] theorem raise_err (e : ErrCode) : (raise e s).err = e := rfl
@[simp] theorem raise_spValid (e : ErrCode) : (raise e s).spValid = s.spValid := rfl
@[simp] theorem raise_sensorValid (e : ErrCode) : (raise e s).sensorValid = s.sensorValid := rfl
@[simp] theorem raise_rej (e : ErrCode) : (raise e s).rej = s.rej := rfl
@[simp] theorem raise_ie (e : ErrCode) : (raise e s).ie = s.ie := rfl
@[simp] theorem raise_rxData (e : ErrCode) : (raise e s).rxData = s.rxData := rfl
@[simp] theorem raise_crc (e : ErrCode) : (raise e s).crc = s.crc := rfl
@[simp] theorem raise_romAddr (e : ErrCode) : (raise e s).romAddr = s.romAddr := rfl
@[simp] theorem raise_sp (e : ErrCode) : (raise e s).sp = s.sp := rfl
@[simp] theorem raise_tempRaw (e : ErrCode) : (raise e s).tempRaw = s.tempRaw := rfl
@[simp] theorem raise_alarmH (e : ErrCode) : (raise e s).alarmH = s.alarmH := rfl
@[simp] theorem raise_alarmL (e : ErrCode) : (raise e s).alarmL = s.alarmL := rfl
@[simp] theorem raise_res (e : ErrCode) : (raise e s).res = s.res := rfl
@[simp] theorem raise_cmdData (e : ErrCode) : (raise e s).cmdData = s.cmdData := rfl
@[simp] theorem raise_seq (e : ErrCode) : (raise e s).seq = .idle := rfl
@[simp] theorem raise_presc (e : ErrCode) : (raise e s).presc = s.presc := rfl
@[simp] theorem raise_shift (e : ErrCode) : (raise e s).shift = s.shift := rfl
@[simp] theorem raise_bitCnt (e : ErrCode) : (raise e s).bitCnt = s.bitCnt := rfl
@[simp] theorem raise_searchAcc (e : ErrCode) : (raise e s).searchAcc = s.searchAcc := rfl
@[simp] theorem raise_searchIdx (e : ErrCode) : (raise e s).searchIdx = s.searchIdx := rfl
@[simp] theorem raise_presSeen (e : ErrCode) : (raise e s).presSeen = s.presSeen := rfl
@[simp] theorem raise_waitCnt (e : ErrCode) : (raise e s).waitCnt = s.waitCnt := rfl
@[simp] theorem raise_rdBit (e : ErrCode) : (raise e s).rdBit = s.rdBit := rfl
@[simp] theorem raise_trueBit (e : ErrCode) : (raise e s).trueBit = s.trueBit := rfl
@[simp] theorem raise_chosen (e : ErrCode) : (raise e s).chosen = s.chosen := rfl
@[simp] theorem raise_rstN (e : ErrCode) : (raise e s).rstN = s.rstN := rfl
@[simp] theorem raise_hostRdata (e : ErrCode) : (raise e s).hostRdata = s.hostRdata := rfl
@[simp] theorem raise_cfg (e : ErrCode) : (raise e s).cfg = s.cfg := rfl
@[simp] theorem raise_events (e : ErrCode) : (raise e s).events = s.events := rfl
@[simp] theorem raise_draws (e : ErrCode) : (raise e s).draws = s.draws := rfl

/-! ### complete -/

@[simp] theorem complete_busy : (complete s).busy = false := rfl
@[simp] theorem complete_done : (complete s).done = true := rfl
@[simp] theorem complete_err : (complete s).err = s.err := rfl
@[simp] theorem complete_spValid : (complete s).spValid = s.spValid := rfl
@[simp] theorem complete_sensorValid : (complete s).sensorValid = s.sensorValid := rfl
@[simp] theorem complete_rej : (complete s).rej = s.rej := rfl
@[simp] theorem complete_ie : (complete s).ie = s.ie := rfl
@[simp] theorem complete_rxData : (complete s).rxData = s.rxData := rfl
@[simp] theorem complete_crc : (complete s).crc = s.crc := rfl
@[simp] theorem complete_romAddr : (complete s).romAddr = s.romAddr := rfl
@[simp] theorem complete_sp : (complete s).sp = s.sp := rfl
@[simp] theorem complete_tempRaw : (complete s).tempRaw = s.tempRaw := rfl
@[simp] theorem complete_alarmH : (complete s).alarmH = s.alarmH := rfl
@[simp] theorem complete_alarmL : (complete s).alarmL = s.alarmL := rfl
@[simp] theorem complete_res : (complete s).res = s.res := rfl
@[simp] theorem complete_cmdData : (complete s).cmdData = s.cmdData := rfl
@[simp] theorem complete_seq : (complete s).seq = .idle := rfl
@[simp] theorem complete_presc : (complete s).presc = s.presc := rfl
@[simp] theorem complete_shift : (complete s).shift = s.shift := rfl
@[simp] theorem complete_bitCnt : (complete s).bitCnt = s.bitCnt := rfl
@[simp] theorem complete_searchAcc : (complete s).searchAcc = s.searchAcc := rfl
@[simp] theorem complete_searchIdx : (complete s).searchIdx = s.searchIdx := rfl
@[simp] theorem complete_presSeen : (complete s).presSeen = s.presSeen := rfl
@[simp] theorem complete_waitCnt : (complete s).waitCnt = s.waitCnt := rfl
@[simp] theorem complete_rdBit : (complete s).rdBit = s.rdBit := rfl
@[simp] theorem complete_trueBit : (complete s).trueBit = s.trueBit := rfl
@[simp] theorem complete_chosen : (complete s).chosen = s.chosen := rfl
@[simp] theorem complete_rstN : (complete s).rstN = s.rstN := rfl
@[simp] theorem complete_hostRdata : (complete s).hostRdata = s.hostRdata := rfl
@[simp] theorem complete_cfg : (complete s).cfg = s.cfg := rfl
@[simp] theorem complete_events : (complete s).events = s.events := rfl
@[simp] theorem complete_draws : (complete s).draws = s.draws := rfl

/-! ### reject -/

@[simp] theorem reject_busy : (reject s).busy = s.busy := rfl
@[simp] theorem reject_done : (reject s).done = s.done := rfl
@[simp] theorem reject_err : (reject s).err = s.err := rfl
@[simp] theorem reject_spValid : (reject s).spValid = s.spValid := rfl
@[simp] theorem reject_sensorValid : (reject s).sensorValid = s.sensorValid := rfl
@[simp] theorem reject_rej : (reject s).rej = true := rfl
@[simp] theorem reject_ie : (reject s).ie = s.ie := rfl
@[simp] theorem reject_rxData : (reject s).rxData = s.rxData := rfl
@[simp] theorem reject_crc : (reject s).crc = s.crc := rfl
@[simp] theorem reject_romAddr : (reject s).romAddr = s.romAddr := rfl
@[simp] theorem reject_sp : (reject s).sp = s.sp := rfl
@[simp] theorem reject_tempRaw : (reject s).tempRaw = s.tempRaw := rfl
@[simp] theorem reject_alarmH : (reject s).alarmH = s.alarmH := rfl
@[simp] theorem reject_alarmL : (reject s).alarmL = s.alarmL := rfl
@[simp] theorem reject_res : (reject s).res = s.res := rfl
@[simp] theorem reject_cmdData : (reject s).cmdData = s.cmdData := rfl
@[simp] theorem reject_seq : (reject s).seq = s.seq := rfl
@[simp] theorem reject_presc : (reject s).presc = s.presc := rfl
@[simp] theorem reject_shift : (reject s).shift = s.shift := rfl
@[simp] theorem reject_bitCnt : (reject s).bitCnt = s.bitCnt := rfl
@[simp] theorem reject_searchAcc : (reject s).searchAcc = s.searchAcc := rfl
@[simp] theorem reject_searchIdx : (reject s).searchIdx = s.searchIdx := rfl
@[simp] theorem reject_presSeen : (reject s).presSeen = s.presSeen := rfl
@[simp] theorem reject_waitCnt : (reject s).waitCnt = s.waitCnt := rfl
@[simp] theorem reject_rdBit : (reject s).rdBit = s.rdBit := rfl
@[simp] theorem reject_trueBit : (reject s).trueBit = s.trueBit := rfl
@[simp] theorem reject_chosen : (reject s).chosen = s.chosen := rfl
@[simp] theorem reject_rstN : (reject s).rstN = s.rstN := rfl
@[simp] theorem reject_hostRdata : (reject s).hostRdata = s.hostRdata := rfl
@[simp] theorem reject_cfg : (reject s).cfg = s.cfg := rfl
@[simp] theorem reject_events : (reject s).events = s.events := rfl
@[simp] theorem reject_draws : (reject s).draws = s.draws := rfl

/-! ### clearDone -/

@[simp] theorem clearDone_busy : (clearDone s).busy = s.busy := rfl
@[simp] theorem clearDone_done : (clearDone s).done = false := rfl
@[simp] theorem clearDone_err : (clearDone s).err = s.err := rfl
@[simp] theorem clearDone_spValid : (clearDone s).spValid = s.spValid := rfl
@[simp] theorem clearDone_sensorValid : (clearDone s).sensorValid = s.sensorValid := rfl
@[simp] theorem clearDone_rej : (clearDone s).rej = s.rej := rfl
@[simp] theorem clearDone_ie : (clearDone s).ie = s.ie := rfl
@[simp] theorem clearDone_rxData : (clearDone s).rxData = s.rxData := rfl
@[simp] theorem clearDone_crc : (clearDone s).crc = s.crc := rfl
@[simp] theorem clearDone_romAddr : (clearDone s).romAddr = s.romAddr := rfl
@[simp] theorem clearDone_sp : (clearDone s).sp = s.sp := rfl
@[simp] theorem clearDone_tempRaw : (clearDone s).tempRaw = s.tempRaw := rfl
@[simp] theorem clearDone_alarmH : (clearDone s).alarmH = s.alarmH := rfl
@[simp] theorem clearDone_alarmL : (clearDone s).alarmL = s.alarmL := rfl
@[simp] theorem clearDone_res : (clearDone s).res = s.res := rfl
@[simp] theorem clearDone_cmdData : (clearDone s).cmdData = s.cmdData := rfl
@[simp] theorem clearDone_seq : (clearDone s).seq = s.seq := rfl
@[simp] theorem clearDone_presc : (clearDone s).presc = s.presc := rfl
@[simp] theorem clearDone_shift : (clearDone s).shift = s.shift := rfl
@[simp] theorem clearDone_bitCnt : (clearDone s).bitCnt = s.bitCnt := rfl
@[simp] theorem clearDone_searchAcc : (clearDone s).searchAcc = s.searchAcc := rfl
@[simp] theorem clearDone_searchIdx : (clearDone s).searchIdx = s.searchIdx := rfl
@[simp] theorem clearDone_presSeen : (clearDone s).presSeen = s.presSeen := rfl
@[simp] theorem clearDone_waitCnt : (clearDone s).waitCnt = s.waitCnt := rfl
@[simp] theorem clearDone_rdBit : (clearDone s).rdBit = s.rdBit := rfl
@[simp] theorem clearDone_trueBit : (clearDone s).trueBit = s.trueBit := rfl
@[simp] theorem clearDone_chosen : (clearDone s).chosen = s.chosen := rfl
@[simp] theorem clearDone_rstN : (clearDone s).rstN = s.rstN := rfl
@[simp] theorem clearDone_hostRdata : (clearDone s).hostRdata = s.hostRdata := rfl
@[simp] theorem clearDone_cfg : (clearDone s).cfg = s.cfg := rfl
@[simp] theorem clearDone_events : (clearDone s).events = s.events := rfl
@[simp] theorem clearDone_draws : (clearDone s).draws = s.draws := rfl

/-! ### acceptFlags -/

@[simp] theorem acceptFlags_busy (d : Byte) : (acceptFlags d s).busy = s.busy := rfl
@[simp] theorem acceptFlags_done (d : Byte) : (acceptFlags d s).done = false := rfl
@[simp] theorem acceptFlags_err (d : Byte) : (acceptFlags d s).err = .none := rfl
@[simp] theorem acceptFlags_spValid (d : Byte) : (acceptFlags d s).spValid = s.spValid := rfl
@[simp] theorem acceptFlags_sensorValid (d : Byte) : (acceptFlags d s).sensorValid = s.sensorValid := rfl
@[simp] theorem acceptFlags_rej (d : Byte) : (acceptFlags d s).rej = false := rfl
@[simp] theorem acceptFlags_ie (d : Byte) : (acceptFlags d s).ie = s.ie := rfl
@[simp] theorem acceptFlags_rxData (d : Byte) : (acceptFlags d s).rxData = s.rxData := rfl
@[simp] theorem acceptFlags_crc (d : Byte) : (acceptFlags d s).crc = s.crc := rfl
@[simp] theorem acceptFlags_romAddr (d : Byte) : (acceptFlags d s).romAddr = s.romAddr := rfl
@[simp] theorem acceptFlags_sp (d : Byte) : (acceptFlags d s).sp = s.sp := rfl
@[simp] theorem acceptFlags_tempRaw (d : Byte) : (acceptFlags d s).tempRaw = s.tempRaw := rfl
@[simp] theorem acceptFlags_alarmH (d : Byte) : (acceptFlags d s).alarmH = s.alarmH := rfl
@[simp] theorem acceptFlags_alarmL (d : Byte) : (acceptFlags d s).alarmL = s.alarmL := rfl
@[simp] theorem acceptFlags_res (d : Byte) : (acceptFlags d s).res = s.res := rfl
@[simp] theorem acceptFlags_cmdData (d : Byte) : (acceptFlags d s).cmdData = d := rfl
@[simp] theorem acceptFlags_seq (d : Byte) : (acceptFlags d s).seq = s.seq := rfl
@[simp] theorem acceptFlags_presc (d : Byte) : (acceptFlags d s).presc = s.presc := rfl
@[simp] theorem acceptFlags_shift (d : Byte) : (acceptFlags d s).shift = s.shift := rfl
@[simp] theorem acceptFlags_bitCnt (d : Byte) : (acceptFlags d s).bitCnt = s.bitCnt := rfl
@[simp] theorem acceptFlags_searchAcc (d : Byte) : (acceptFlags d s).searchAcc = s.searchAcc := rfl
@[simp] theorem acceptFlags_searchIdx (d : Byte) : (acceptFlags d s).searchIdx = s.searchIdx := rfl
@[simp] theorem acceptFlags_presSeen (d : Byte) : (acceptFlags d s).presSeen = s.presSeen := rfl
@[simp] theorem acceptFlags_waitCnt (d : Byte) : (acceptFlags d s).waitCnt = s.waitCnt := rfl
@[simp] theorem acceptFlags_rdBit (d : Byte) : (acceptFlags d s).rdBit = s.rdBit := rfl
@[simp] theorem acceptFlags_trueBit (d : Byte) : (acceptFlags d s).trueBit = s.trueBit := rfl
@[simp] theorem acceptFlags_chosen (d : Byte) : (acceptFlags d s).chosen = s.chosen := rfl
@[simp] theorem acceptFlags_rstN (d : Byte) : (acceptFlags d s).rstN = s.rstN := rfl
@[simp] theorem acceptFlags_hostRdata (d : Byte) : (acceptFlags d s).hostRdata = s.hostRdata := rfl
@[simp] theorem acceptFlags_cfg (d : Byte) : (acceptFlags d s).cfg = s.cfg := rfl
@[simp] theorem acceptFlags_events (d : Byte) : (acceptFlags d s).events = s.events := rfl
@[simp] theorem acceptFlags_draws (d : Byte) : (acceptFlags d s).draws = s.draws := rfl

/-! ### clearSpValid -/

@[simp] theorem clearSpValid_busy : (clearSpValid s).busy = s.busy := rfl
@[simp] theorem clearSpValid_done : (clearSpValid s).done = s.done := rfl
@[simp] theorem clearSpValid_err : (clearSpValid s).err = s.err := rfl
@[simp] theorem clearSpValid_spValid : (clearSpValid s).spValid = false := rfl
@[simp] theorem clearSpValid_sensorValid : (clearSpValid s).sensorValid = s.sensorValid := rfl
@[simp] theorem clearSpValid_rej : (clearSpValid s).rej = s.rej := rfl
@[simp] theorem clearSpValid_ie : (clearSpValid s).ie = s.ie := rfl
@[simp] theorem clearSpValid_rxData : (clearSpValid s).rxData = s.rxData := rfl
@[simp] theorem clearSpValid_crc : (clearSpValid s).crc = s.crc := rfl
@[simp] theorem clearSpValid_romAddr : (clearSpValid s).romAddr = s.romAddr := rfl
@[simp] theorem clearSpValid_sp : (clearSpValid s).sp = s.sp := rfl
@[simp] theorem clearSpValid_tempRaw : (clearSpValid s).tempRaw = s.tempRaw := rfl
@[simp] theorem clearSpValid_alarmH : (clearSpValid s).alarmH = s.alarmH := rfl
@[simp] theorem clearSpValid_alarmL : (clearSpValid s).alarmL = s.alarmL := rfl
@[simp] theorem clearSpValid_res : (clearSpValid s).res = s.res := rfl
@[simp] theorem clearSpValid_cmdData : (clearSpValid s).cmdData = s.cmdData := rfl
@[simp] theorem clearSpValid_seq : (clearSpValid s).seq = s.seq := rfl
@[simp] theorem clearSpValid_presc : (clearSpValid s).presc = s.presc := rfl
@[simp] theorem clearSpValid_shift : (clearSpValid s).shift = s.shift := rfl
@[simp] theorem clearSpValid_bitCnt : (clearSpValid s).bitCnt = s.bitCnt := rfl
@[simp] theorem clearSpValid_searchAcc : (clearSpValid s).searchAcc = s.searchAcc := rfl
@[simp] theorem clearSpValid_searchIdx : (clearSpValid s).searchIdx = s.searchIdx := rfl
@[simp] theorem clearSpValid_presSeen : (clearSpValid s).presSeen = s.presSeen := rfl
@[simp] theorem clearSpValid_waitCnt : (clearSpValid s).waitCnt = s.waitCnt := rfl
@[simp] theorem clearSpValid_rdBit : (clearSpValid s).rdBit = s.rdBit := rfl
@[simp] theorem clearSpValid_trueBit : (clearSpValid s).trueBit = s.trueBit := rfl
@[simp] theorem clearSpValid_chosen : (clearSpValid s).chosen = s.chosen := rfl
@[simp] theorem clearSpValid_rstN : (clearSpValid s).rstN = s.rstN := rfl
@[simp] theorem clearSpValid_hostRdata : (clearSpValid s).hostRdata = s.hostRdata := rfl
@[simp] theorem clearSpValid_cfg : (clearSpValid s).cfg = s.cfg := rfl
@[simp] theorem clearSpValid_events : (clearSpValid s).events = s.events := rfl
@[simp] theorem clearSpValid_draws : (clearSpValid s).draws = s.draws := rfl

/-! ### clearSensorValid -/

@[simp] theorem clearSensorValid_busy : (clearSensorValid s).busy = s.busy := rfl
@[simp] theorem clearSensorValid_done : (clearSensorValid s).done = s.done := rfl
@[simp] theorem clearSensorValid_err : (clearSensorValid s).err = s.err := rfl
@[simp] theorem clearSensorValid_spValid : (clearSensorValid s).spValid = false := rfl
@[simp] theorem clearSensorValid_sensorValid : (clearSensorValid s).sensorValid = false := rfl
@[simp] theorem clearSensorValid_rej : (clearSensorValid s).rej = s.rej := rfl
@[simp] theorem clearSensorValid_ie : (clearSensorValid s).ie = s.ie := rfl
@[simp] theorem clearSensorValid_rxData : (clearSensorValid s).rxData = s.rxData := rfl
@[simp] theorem clearSensorValid_crc : (clearSensorValid s).crc = s.crc := rfl
@[simp] theorem clearSensorValid_romAddr : (clearSensorValid s).romAddr = s.romAddr := rfl
@[simp] theorem clearSensorValid_sp : (clearSensorValid s).sp = s.sp := rfl
@[simp] theorem clearSensorValid_tempRaw : (clearSensorValid s).tempRaw = s.tempRaw := rfl
@[simp] theorem clearSensorValid_alarmH : (clearSensorValid s).alarmH = s.alarmH := rfl
@[simp] theorem clearSensorValid_alarmL : (clearSensorValid s).alarmL = s.alarmL := rfl
@[simp] theorem clearSensorValid_res : (clearSensorValid s).res = s.res := rfl
@[simp] theorem clearSensorValid_cmdData : (clearSensorValid s).cmdData = s.cmdData := rfl
@[simp] theorem clearSensorValid_seq : (clearSensorValid s).seq = s.seq := rfl
@[simp] theorem clearSensorValid_presc : (clearSensorValid s).presc = s.presc := rfl
@[simp] theorem clearSensorValid_shift : (clearSensorValid s).shift = s.shift := rfl
@[simp] theorem clearSensorValid_bitCnt : (clearSensorValid s).bitCnt = s.bitCnt := rfl
@[simp] theorem clearSensorValid_searchAcc : (clearSensorValid s).searchAcc = s.searchAcc := rfl
@[simp] theorem clearSensorValid_searchIdx : (clearSensorValid s).searchIdx = s.searchIdx := rfl
@[simp] theorem clearSensorValid_presSeen : (clearSensorValid s).presSeen = s.presSeen := rfl
@[simp] theorem clearSensorValid_waitCnt : (clearSensorValid s).waitCnt = s.waitCnt := rfl
@[simp] theorem clearSensorValid_rdBit : (clearSensorValid s).rdBit = s.rdBit := rfl
@[simp] theorem clearSensorValid_trueBit : (clearSensorValid s).trueBit = s.trueBit := rfl
@[simp] theorem clearSensorValid_chosen : (clearSensorValid s).chosen = s.chosen := rfl
@[simp] theorem clearSensorValid_rstN : (clearSensorValid s).rstN = s.rstN := rfl
@[simp] theorem clearSensorValid_hostRdata : (clearSensorValid s).hostRdata = s.hostRdata := rfl
@[simp] theorem clearSensorValid_cfg : (clearSensorValid s).cfg = s.cfg := rfl
@[simp] theorem clearSensorValid_events : (clearSensorValid s).events = s.events := rfl
@[simp] theorem clearSensorValid_draws : (clearSensorValid s).draws = s.draws := rfl

/-! ### writeCtrl -/

@[simp] theorem writeCtrl_busy (v : Word) : (writeCtrl v s).busy = s.busy := rfl
@[simp] theorem writeCtrl_done (v : Word) : (writeCtrl v s).done = s.done := rfl
@[simp] theorem writeCtrl_err (v : Word) : (writeCtrl v s).err = s.err := rfl
@[simp] theorem writeCtrl_spValid (v : Word) : (writeCtrl v s).spValid = s.spValid := rfl
@[simp] theorem writeCtrl_sensorValid (v : Word) : (writeCtrl v s).sensorValid = s.sensorValid := rfl
@[simp] theorem writeCtrl_rej (v : Word) : (writeCtrl v s).rej = s.rej := rfl
@[simp] theorem writeCtrl_ie (v : Word) : (writeCtrl v s).ie = v.getLsbD 0 := rfl
@[simp] theorem writeCtrl_rxData (v : Word) : (writeCtrl v s).rxData = s.rxData := rfl
@[simp] theorem writeCtrl_crc (v : Word) : (writeCtrl v s).crc = s.crc := rfl
@[simp] theorem writeCtrl_romAddr (v : Word) : (writeCtrl v s).romAddr = s.romAddr := rfl
@[simp] theorem writeCtrl_sp (v : Word) : (writeCtrl v s).sp = s.sp := rfl
@[simp] theorem writeCtrl_tempRaw (v : Word) : (writeCtrl v s).tempRaw = s.tempRaw := rfl
@[simp] theorem writeCtrl_alarmH (v : Word) : (writeCtrl v s).alarmH = s.alarmH := rfl
@[simp] theorem writeCtrl_alarmL (v : Word) : (writeCtrl v s).alarmL = s.alarmL := rfl
@[simp] theorem writeCtrl_res (v : Word) : (writeCtrl v s).res = s.res := rfl
@[simp] theorem writeCtrl_cmdData (v : Word) : (writeCtrl v s).cmdData = s.cmdData := rfl
@[simp] theorem writeCtrl_seq (v : Word) : (writeCtrl v s).seq = s.seq := rfl
@[simp] theorem writeCtrl_presc (v : Word) : (writeCtrl v s).presc = s.presc := rfl
@[simp] theorem writeCtrl_shift (v : Word) : (writeCtrl v s).shift = s.shift := rfl
@[simp] theorem writeCtrl_bitCnt (v : Word) : (writeCtrl v s).bitCnt = s.bitCnt := rfl
@[simp] theorem writeCtrl_searchAcc (v : Word) : (writeCtrl v s).searchAcc = s.searchAcc := rfl
@[simp] theorem writeCtrl_searchIdx (v : Word) : (writeCtrl v s).searchIdx = s.searchIdx := rfl
@[simp] theorem writeCtrl_presSeen (v : Word) : (writeCtrl v s).presSeen = s.presSeen := rfl
@[simp] theorem writeCtrl_waitCnt (v : Word) : (writeCtrl v s).waitCnt = s.waitCnt := rfl
@[simp] theorem writeCtrl_rdBit (v : Word) : (writeCtrl v s).rdBit = s.rdBit := rfl
@[simp] theorem writeCtrl_trueBit (v : Word) : (writeCtrl v s).trueBit = s.trueBit := rfl
@[simp] theorem writeCtrl_chosen (v : Word) : (writeCtrl v s).chosen = s.chosen := rfl
@[simp] theorem writeCtrl_rstN (v : Word) : (writeCtrl v s).rstN = s.rstN := rfl
@[simp] theorem writeCtrl_hostRdata (v : Word) : (writeCtrl v s).hostRdata = s.hostRdata := rfl
@[simp] theorem writeCtrl_cfg (v : Word) : (writeCtrl v s).cfg = s.cfg := rfl
@[simp] theorem writeCtrl_events (v : Word) : (writeCtrl v s).events = s.events := rfl
@[simp] theorem writeCtrl_draws (v : Word) : (writeCtrl v s).draws = s.draws := rfl

/-! ### ended -/

@[simp] theorem ended_busy (d : Byte) (e : ErrCode) : (ended d e s).busy = false := rfl
@[simp] theorem ended_done (d : Byte) (e : ErrCode) : (ended d e s).done = true := rfl
@[simp] theorem ended_err (d : Byte) (e : ErrCode) : (ended d e s).err = e := rfl
@[simp] theorem ended_spValid (d : Byte) (e : ErrCode) : (ended d e s).spValid = s.spValid := rfl
@[simp] theorem ended_sensorValid (d : Byte) (e : ErrCode) : (ended d e s).sensorValid = s.sensorValid := rfl
@[simp] theorem ended_rej (d : Byte) (e : ErrCode) : (ended d e s).rej = false := rfl
@[simp] theorem ended_ie (d : Byte) (e : ErrCode) : (ended d e s).ie = s.ie := rfl
@[simp] theorem ended_rxData (d : Byte) (e : ErrCode) : (ended d e s).rxData = s.rxData := rfl
@[simp] theorem ended_crc (d : Byte) (e : ErrCode) : (ended d e s).crc = s.crc := rfl
@[simp] theorem ended_romAddr (d : Byte) (e : ErrCode) : (ended d e s).romAddr = s.romAddr := rfl
@[simp] theorem ended_sp (d : Byte) (e : ErrCode) : (ended d e s).sp = s.sp := rfl
@[simp] theorem ended_tempRaw (d : Byte) (e : ErrCode) : (ended d e s).tempRaw = s.tempRaw := rfl
@[simp] theorem ended_alarmH (d : Byte) (e : ErrCode) : (ended d e s).alarmH = s.alarmH := rfl
@[simp] theorem ended_alarmL (d : Byte) (e : ErrCode) : (ended d e s).alarmL = s.alarmL := rfl
@[simp] theorem ended_res (d : Byte) (e : ErrCode) : (ended d e s).res = s.res := rfl
@[simp] theorem ended_cmdData (d : Byte) (e : ErrCode) : (ended d e s).cmdData = d := rfl
@[simp] theorem ended_seq (d : Byte) (e : ErrCode) : (ended d e s).seq = .idle := rfl
@[simp] theorem ended_presc (d : Byte) (e : ErrCode) : (ended d e s).presc = s.presc := rfl
@[simp] theorem ended_shift (d : Byte) (e : ErrCode) : (ended d e s).shift = s.shift := rfl
@[simp] theorem ended_bitCnt (d : Byte) (e : ErrCode) : (ended d e s).bitCnt = s.bitCnt := rfl
@[simp] theorem ended_searchAcc (d : Byte) (e : ErrCode) : (ended d e s).searchAcc = s.searchAcc := rfl
@[simp] theorem ended_searchIdx (d : Byte) (e : ErrCode) : (ended d e s).searchIdx = s.searchIdx := rfl
@[simp] theorem ended_presSeen (d : Byte) (e : ErrCode) : (ended d e s).presSeen = s.presSeen := rfl
@[simp] theorem ended_waitCnt (d : Byte) (e : ErrCode) : (ended d e s).waitCnt = s.waitCnt := rfl
@[simp] theorem ended_rdBit (d : Byte) (e : ErrCode) : (ended d e s).rdBit = s.rdBit := rfl
@[simp] theorem ended_trueBit (d : Byte) (e : ErrCode) : (ended d e s).trueBit = s.trueBit := rfl
@[simp] theorem ended_chosen (d : Byte) (e : ErrCode) : (ended d e s).chosen = s.chosen := rfl
@[simp] theorem ended_rstN (d : Byte) (e : ErrCode) : (ended d e s).rstN = s.rstN := rfl
@[simp] theorem ended_hostRdata (d : Byte) (e : ErrCode) : (ended d e s).hostRdata = s.hostRdata := rfl
@[simp] theorem ended_cfg (d : Byte) (e : ErrCode) : (ended d e s).cfg = s.cfg := rfl
@[simp] theorem ended_events (d : Byte) (e : ErrCode) : (ended d e s).events = s.events := rfl
@[simp] theorem ended_draws (d : Byte) (e : ErrCode) : (ended d e s).draws = s.draws := rfl

/-! ### State.visible -/

@[simp] theorem visible_busy : (State.visible s).busy = s.busy := rfl
@[simp] theorem visible_done : (State.visible s).done = s.done := rfl
@[simp] theorem visible_err : (State.visible s).err = s.err := rfl
@[simp] theorem visible_spValid : (State.visible s).spValid = s.spValid := rfl
@[simp] theorem visible_sensorValid : (State.visible s).sensorValid = s.sensorValid := rfl
@[simp] theorem visible_rej : (State.visible s).rej = s.rej := rfl
@[simp] theorem visible_ie : (State.visible s).ie = s.ie := rfl
@[simp] theorem visible_rxData : (State.visible s).rxData = s.rxData := rfl
@[simp] theorem visible_crc : (State.visible s).crc = s.crc := rfl
@[simp] theorem visible_romAddr : (State.visible s).romAddr = s.romAddr := rfl
@[simp] theorem visible_sp : (State.visible s).sp = s.sp := rfl
@[simp] theorem visible_tempRaw : (State.visible s).tempRaw = s.tempRaw := rfl
@[simp] theorem visible_alarmH : (State.visible s).alarmH = s.alarmH := rfl
@[simp] theorem visible_alarmL : (State.visible s).alarmL = s.alarmL := rfl
@[simp] theorem visible_res : (State.visible s).res = s.res := rfl
@[simp] theorem visible_cmdData : (State.visible s).cmdData = s.cmdData := rfl
@[simp] theorem visible_seq : (State.visible s).seq = s.seq := rfl
@[simp] theorem visible_presc : (State.visible s).presc = s.presc := rfl
@[simp] theorem visible_shift : (State.visible s).shift = 0 := rfl
@[simp] theorem visible_bitCnt : (State.visible s).bitCnt = 0 := rfl
@[simp] theorem visible_searchAcc : (State.visible s).searchAcc = 0 := rfl
@[simp] theorem visible_searchIdx : (State.visible s).searchIdx = 0 := rfl
@[simp] theorem visible_presSeen : (State.visible s).presSeen = false := rfl
@[simp] theorem visible_waitCnt : (State.visible s).waitCnt = 0 := rfl
@[simp] theorem visible_rdBit : (State.visible s).rdBit = false := rfl
@[simp] theorem visible_trueBit : (State.visible s).trueBit = false := rfl
@[simp] theorem visible_chosen : (State.visible s).chosen = false := rfl
@[simp] theorem visible_rstN : (State.visible s).rstN = s.rstN := rfl
@[simp] theorem visible_hostRdata : (State.visible s).hostRdata = s.hostRdata := rfl
@[simp] theorem visible_cfg : (State.visible s).cfg = s.cfg := rfl
@[simp] theorem visible_events : (State.visible s).events = s.events := rfl
@[simp] theorem visible_draws : (State.visible s).draws = s.draws := rfl

/-! ### resetRegs -/

@[simp] theorem resetRegs_busy : (resetRegs s).busy = State.reset.busy := rfl
@[simp] theorem resetRegs_done : (resetRegs s).done = State.reset.done := rfl
@[simp] theorem resetRegs_err : (resetRegs s).err = State.reset.err := rfl
@[simp] theorem resetRegs_spValid : (resetRegs s).spValid = State.reset.spValid := rfl
@[simp] theorem resetRegs_sensorValid : (resetRegs s).sensorValid = State.reset.sensorValid := rfl
@[simp] theorem resetRegs_rej : (resetRegs s).rej = State.reset.rej := rfl
@[simp] theorem resetRegs_ie : (resetRegs s).ie = State.reset.ie := rfl
@[simp] theorem resetRegs_rxData : (resetRegs s).rxData = State.reset.rxData := rfl
@[simp] theorem resetRegs_crc : (resetRegs s).crc = State.reset.crc := rfl
@[simp] theorem resetRegs_romAddr : (resetRegs s).romAddr = State.reset.romAddr := rfl
@[simp] theorem resetRegs_sp : (resetRegs s).sp = State.reset.sp := rfl
@[simp] theorem resetRegs_tempRaw : (resetRegs s).tempRaw = State.reset.tempRaw := rfl
@[simp] theorem resetRegs_alarmH : (resetRegs s).alarmH = State.reset.alarmH := rfl
@[simp] theorem resetRegs_alarmL : (resetRegs s).alarmL = State.reset.alarmL := rfl
@[simp] theorem resetRegs_res : (resetRegs s).res = State.reset.res := rfl
@[simp] theorem resetRegs_cmdData : (resetRegs s).cmdData = State.reset.cmdData := rfl
@[simp] theorem resetRegs_seq : (resetRegs s).seq = State.reset.seq := rfl
@[simp] theorem resetRegs_presc : (resetRegs s).presc = State.reset.presc := rfl
@[simp] theorem resetRegs_shift : (resetRegs s).shift = State.reset.shift := rfl
@[simp] theorem resetRegs_bitCnt : (resetRegs s).bitCnt = State.reset.bitCnt := rfl
@[simp] theorem resetRegs_searchAcc : (resetRegs s).searchAcc = State.reset.searchAcc := rfl
@[simp] theorem resetRegs_searchIdx : (resetRegs s).searchIdx = State.reset.searchIdx := rfl
@[simp] theorem resetRegs_presSeen : (resetRegs s).presSeen = State.reset.presSeen := rfl
@[simp] theorem resetRegs_waitCnt : (resetRegs s).waitCnt = State.reset.waitCnt := rfl
@[simp] theorem resetRegs_rdBit : (resetRegs s).rdBit = State.reset.rdBit := rfl
@[simp] theorem resetRegs_trueBit : (resetRegs s).trueBit = State.reset.trueBit := rfl
@[simp] theorem resetRegs_chosen : (resetRegs s).chosen = State.reset.chosen := rfl
@[simp] theorem resetRegs_rstN : (resetRegs s).rstN = s.rstN := rfl
@[simp] theorem resetRegs_hostRdata : (resetRegs s).hostRdata = State.reset.hostRdata := rfl
@[simp] theorem resetRegs_cfg : (resetRegs s).cfg = s.cfg := rfl
@[simp] theorem resetRegs_events : (resetRegs s).events = s.events := rfl
@[simp] theorem resetRegs_draws : (resetRegs s).draws = s.draws := rfl

end Sys2Proof.Machine
end

