-- ==== Sys2Proof/Laws/Run.lean ====
section
/-! SUPPORT. What the sequencer does, said once: positions of SEQ, what each segment does over its ticks, and how runs of
segment lists compose. A command's run is a chain of these. -/

namespace Sys2Proof.Machine

/-- `s` with SEQ in the list `p` of the command `op`, after `k` ticks of its first segment. -/
def pos (op : BitVec 4) (p : List Seg) (k : Nat) (s : State) : State := { s with seq := .running op p, waitCnt := k }

@[simp] theorem pos_busy (op p k s) : (pos op p k s).busy = s.busy := rfl
@[simp] theorem pos_seq (op p k s) : (pos op p k s).seq = .running op p := rfl
@[simp] theorem pos_waitCnt (op p k s) : (pos op p k s).waitCnt = k := rfl
@[simp] theorem pos_cfg (op p k s) : (pos op p k s).cfg = s.cfg := rfl
@[simp] theorem pos_presSeen (op p k s) : (pos op p k s).presSeen = s.presSeen := rfl
@[simp] theorem pos_pos (op p k op' p' k' s) : pos op p k (pos op' p' k' s) = pos op p k s := rfl
@[simp] theorem segTicks_pos (op p k s g) : segTicks (pos op p k s) g = segTicks s g := by cases g <;> rfl

/-- The assignments neither read nor write SEQ and WAIT_CNT. -/
theorem runAct_pos (a : Act) (op p k) (s : State) :
    runAct a (pos op p k s) = (pos op p k (runAct a s).1, (runAct a s).2) := by
  cases a with
  | searchDecide =>
    simp only [runAct, pos]
    cases pairDecide s.cfg.searchPairMap s.trueBit s.rdBit <;> rfl
  | sensorWrite =>
    simp only [runAct, pos]
    cases resDecode s.cfg.resTable s.sp[4] <;> rfl
  | _ => rfl

/-- The assignments keep BUSY. -/
@[simp] theorem runAct_busy (a : Act) (s : State) : (runAct a s).1.busy = s.busy := by
  cases a with
  | searchDecide =>
    simp only [runAct]
    cases pairDecide s.cfg.searchPairMap s.trueBit s.rdBit <;> rfl
  | sensorWrite =>
    simp only [runAct]
    cases resDecode s.cfg.resTable s.sp[4] <;> rfl
  | _ => rfl

/-- The assignments keep the configuration. -/
@[simp] theorem runAct_cfg (a : Act) (s : State) : (runAct a s).1.cfg = s.cfg := by
  cases a with
  | searchDecide =>
    simp only [runAct]
    cases pairDecide s.cfg.searchPairMap s.trueBit s.rdBit <;> rfl
  | sensorWrite =>
    simp only [runAct]
    cases resDecode s.cfg.resTable s.sp[4] <;> rfl
  | _ => rfl

theorem enter_nil (op : BitVec 4) (s : State) : enter op [] s = complete { s with waitCnt := 0 } := rfl

/-- An assignment that raises nothing is passed. -/
theorem enter_act (op : BitVec 4) (a : Act) (rest : List Seg) (s : State) (h : (runAct a s).2 = none) :
    enter op (.act a :: rest) s = enter op rest (runAct a s).1 := by
  simp only [enter]
  split
  · simp_all
  · simp_all

/-- An assignment that raises ends the command. -/
theorem enter_act_raise (op : BitVec 4) (a : Act) (rest : List Seg) (s : State) (e : ErrCode)
    (h : (runAct a s).2 = some e) :
    enter op (.act a :: rest) s = raise e { (runAct a s).1 with waitCnt := 0 } := by
  simp only [enter]
  split <;> simp_all

/-- Whether the entry takes ticks of its own. -/
def Seg.timed : Seg → Bool
  | .act _ => false
  | .low _ => true
  | .rel _ => true
  | .relS _ => true
  | .waitHigh _ => true
  | .pres _ => true
  | .slotLow _ => true
  | .slotRel _ => true

/-- A segment that takes ticks is where SEQ stops. -/
theorem enter_timed (op : BitVec 4) (g : Seg) (rest : List Seg) (s : State) (h : segTicks s g ≠ 0) :
    enter op (g :: rest) s = pos op (g :: rest) 0 s := by
  cases g <;> first | (simp [segTicks] at h; done) | (simp only [enter]; rw [if_neg h]; rfl)

/-- A segment of no ticks is skipped. -/
theorem enter_skip (op : BitVec 4) (g : Seg) (rest : List Seg) (s : State) (ht : g.timed = true) (h : segTicks s g = 0) :
    enter op (g :: rest) s = enter op rest s := by
  cases g <;> first | (simp [Seg.timed] at ht; done) | (simp only [enter]; rw [if_pos h])

/-- Entering a list does not depend on the old SEQ and WAIT_CNT. -/
@[simp] theorem enter_pos (op : BitVec 4) (p : List Seg) (op' p' k) (s : State) :
    enter op p (pos op' p' k s) = enter op p s := by
  induction p generalizing s with
  | nil => rfl
  | cons g rest ih =>
    by_cases ht : g.timed = true
    · by_cases h : segTicks s g = 0
      · rw [enter_skip op g rest s ht h, enter_skip op g rest _ ht (by simpa using h), ih]
      · rw [enter_timed op g rest s h, enter_timed op g rest _ (by simpa using h), pos_pos]
    · obtain ⟨a, rfl⟩ : ∃ a, g = .act a := by cases g <;> simp [Seg.timed] at ht ⊢
      cases hr : (runAct a s).2 with
      | none =>
        rw [enter_act op a rest s hr, enter_act op a rest _ (by rw [runAct_pos]; exact hr), runAct_pos, ih]
      | some e =>
        rw [enter_act_raise op a rest s e hr, enter_act_raise op a rest _ e (by rw [runAct_pos]; exact hr), runAct_pos]
        rfl

/-- A tick in a segment that takes ticks. -/
theorem tick_pos (op : BitVec 4) (g : Seg) (rest : List Seg) (k : Nat) (s : State) (line : Bool) (ht : g.timed = true) :
    tick (pos op (g :: rest) k s) line = tickSeg op g rest line (pos op (g :: rest) k s) := by
  cases g <;> first | (simp [Seg.timed] at ht; done) | rfl

@[simp] theorem ticks_zero (line : Nat → Bool) (s : State) : ticks line 0 s = s := rfl

theorem ticks_succ (line : Nat → Bool) (n : Nat) (s : State) : ticks line (n + 1) s = tick (ticks line n s) (line n) := rfl

/-- Runs compose: `a` ticks, then `b` ticks with the line read from tick `a` on. -/
theorem ticks_add (line : Nat → Bool) (a b : Nat) (s : State) :
    ticks line (a + b) s = ticks (fun k => line (a + k)) b (ticks line a s) := by
  induction b with
  | zero => rfl
  | succ b ih => rw [← Nat.add_assoc, ticks_succ, ticks_succ, ih]

/-- A segment whose end depends on its length alone and that samples nothing. -/
def Seg.plain : Seg → Bool
  | .low _ => true
  | .rel _ => true
  | .slotLow _ => true
  | .slotRel _ => true
  | .relS _ => false
  | .waitHigh _ => false
  | .pres _ => false
  | .act _ => false

/-- Whether the line is driven on the segment's ticks (10_state.md R19). -/
def Seg.driven : Seg → Bool
  | .low _ => true
  | .slotLow _ => true
  | .rel _ => false
  | .slotRel _ => false
  | .relS _ => false
  | .waitHigh _ => false
  | .pres _ => false
  | .act _ => false

@[simp] theorem drive_pos (op g rest k s) : drive (pos op (g :: rest) k s) = g.driven := by cases g <;> rfl

theorem tick_plain (op : BitVec 4) (g : Seg) (rest : List Seg) (k : Nat) (s : State) (line : Bool)
    (hp : g.plain = true) (h : 0 < segTicks s g) :
    tick (pos op (g :: rest) k s) line =
      if k + 1 < segTicks s g then pos op (g :: rest) (k + 1) s else enter op rest s := by
  have ht : g.timed = true := by cases g <;> simp_all [Seg.timed, Seg.plain]
  rw [tick_pos op g rest k s line ht]
  cases g <;> first
    | (simp [Seg.plain] at hp; done)
    | (simp only [tickSeg, sampleLine, segEnds, segError, segTicks_pos, pos_waitCnt, decide_eq_true_eq, enter_pos]
       split <;> rename_i h1 <;> split <;> first | rfl | omega)

/-- A plain segment inside its ticks. -/
theorem ticks_plain (op : BitVec 4) (g : Seg) (rest : List Seg) (s : State) (line : Nat → Bool) (hp : g.plain = true)
    (k : Nat) (hk : k < segTicks s g) : ticks line k (enter op (g :: rest) s) = pos op (g :: rest) k s := by
  induction k with
  | zero => rw [ticks_zero, enter_timed op g rest s (by omega)]
  | succ k ih => rw [ticks_succ, ih (by omega), tick_plain op g rest k s _ hp (by omega), if_pos hk]

/-- A plain segment over all its ticks. -/
theorem ticks_plain_end (op : BitVec 4) (g : Seg) (rest : List Seg) (s : State) (line : Nat → Bool) (hp : g.plain = true) :
    ticks line (segTicks s g) (enter op (g :: rest) s) = enter op rest s := by
  have ht : g.timed = true := by cases g <;> simp_all [Seg.timed, Seg.plain]
  cases h : segTicks s g with
  | zero => rw [ticks_zero, enter_skip op g rest s ht h]
  | succ n =>
    rw [ticks_succ, ticks_plain op g rest s line hp n (by omega), tick_plain op g rest n s _ hp (by omega), h,
      if_neg (by omega)]

/-- The segments `body` of the command `op`, entered from `s`, last `n` ticks of `line`, never end the command, drive the
line as `wave` says, and lead on from `s'`. -/
def Runs (op : BitVec 4) (body : List Seg) (line : Nat → Bool) (n : Nat) (s s' : State) (wave : Nat → Bool) : Prop :=
  ∀ rest, ticks line n (enter op (body ++ rest) s) = enter op rest s' ∧
    ∀ k, k < n → (ticks line k (enter op (body ++ rest) s)).busy = true ∧
      drive (ticks line k (enter op (body ++ rest) s)) = wave k

theorem Runs.congr {op body line n s s' w w'} (h : Runs op body line n s s' w) (hw : ∀ k, k < n → w k = w' k) :
    Runs op body line n s s' w' := fun rest =>
  ⟨(h rest).1, fun k hk => ⟨((h rest).2 k hk).1, (((h rest).2 k hk).2).trans (hw k hk)⟩⟩

theorem Runs.nil (op line s w) : Runs op [] line 0 s s w := fun _ => ⟨rfl, fun _ h => absurd h (Nat.not_lt_zero _)⟩

/-- An assignment takes no tick. -/
theorem Runs.act {op a line s w} (h : (runAct a s).2 = none) : Runs op [.act a] line 0 s (runAct a s).1 w := fun rest =>
  ⟨enter_act op a rest s h, fun _ h => absurd h (Nat.not_lt_zero _)⟩

/-- Runs of lists one after the other. -/
theorem Runs.append {op b1 b2 line n1 n2 s s1 s2 w1 w2} (h1 : Runs op b1 line n1 s s1 w1)
    (h2 : Runs op b2 (fun k => line (n1 + k)) n2 s1 s2 w2) :
    Runs op (b1 ++ b2) line (n1 + n2) s s2 (fun k => if k < n1 then w1 k else w2 (k - n1)) := by
  intro rest
  have e := (h1 (b2 ++ rest)).1
  rw [List.append_assoc]
  refine ⟨by rw [ticks_add, e, (h2 rest).1], fun k hk => ?_⟩
  by_cases hlt : k < n1
  · simpa only [if_pos hlt] using (h1 (b2 ++ rest)).2 k hlt
  · have hk' : k = n1 + (k - n1) := by omega
    have := (h2 rest).2 (k - n1) (by omega)
    rw [hk', ticks_add, e]
    simpa using this

/-- `n` lists of equal length one after the other. -/
theorem Runs.range {op : BitVec 4} {f : Nat → List Seg} {line : Nat → Bool} {len : Nat}
    (σ : Nat → State) (w : Nat → Nat → Bool) (n : Nat)
    (h : ∀ i, i < n → Runs op (f i) (fun k => line (i * len + k)) len (σ i) (σ (i + 1)) (w i)) :
    Runs op ((List.range n).flatMap f) line (n * len) (σ 0) (σ n) (fun k => w (k / len) (k % len)) := by
  induction n with
  | zero => simpa using Runs.nil op line (σ 0) _
  | succ n ih =>
    rw [List.range_succ, List.flatMap_append, Nat.add_mul, Nat.one_mul]
    have h1 := ih fun i hi => h i (by omega)
    have h2 : Runs op ([n].flatMap f) (fun k => line (n * len + k)) len (σ n) (σ (n + 1)) (w n) := by
      simpa using h n (by omega)
    refine (h1.append h2).congr fun k hk => ?_
    split
    · rfl
    · have e : k / len = n := Nat.div_eq_of_lt_le (by omega) (by rw [Nat.add_mul]; omega)
      have e2 : k % len = k - n * len := by
        have := Nat.div_add_mod k len
        rw [e, Nat.mul_comm] at this
        omega
      rw [e, e2]

theorem rounds_eq (n : Nat) (body : List Seg) : rounds n body = (List.range n).flatMap fun _ => body := by
  induction n with
  | zero => rfl
  | succ n ih => rw [rounds, ih, List.range_succ_eq_map, List.flatMap_cons, List.flatMap_map]

/-- A plain segment as a run. -/
theorem Runs.plain {op : BitVec 4} {g : Seg} {line : Nat → Bool} {s : State} (hp : g.plain = true) (hb : s.busy = true) :
    Runs op [g] line (segTicks s g) s s (fun _ => g.driven) := fun rest =>
  ⟨ticks_plain_end op g rest s line hp, fun k hk => by
    rw [List.singleton_append, ticks_plain op g rest s line hp k hk, drive_pos]
    exact ⟨hb, rfl⟩⟩

end Sys2Proof.Machine
end

