-- ==== Sys2Proof/Laws/Ops.lean ====
section
/-! SUPPORT. What the shared operations can do, said once: the register map, the arms of exec, and what the assignments,
`enter` and `tick` never touch. -/

namespace Sys2Proof.Machine

/-- The register map by ranges of the byte offset (10_state.md R20). -/
theorem regOf_spec (off : BitVec 6) :
  (off.toNat < 4 → regOf off = .cmd) ∧ (4 ≤ off.toNat ∧ off.toNat < 8 → regOf off = .status) ∧ (8 ≤ off.toNat ∧
      off.toNat < 12 → regOf off = .ctrl) ∧ (0x34 ≤ off.toNat → regOf off = .reserved) ∧
  ((12 ≤ off.toNat ∧ off.toNat < 0x14 ∨ 0x1C ≤ off.toNat) → regOf off ≠ .cmd ∧ regOf off ≠ .status ∧
      regOf off ≠ .ctrl ∧ regOf off ≠ .romAddrLo ∧ regOf off ≠ .romAddrHi) := by
  revert off; decide

/-- The segment list of a command. -/
def progOf (c : Config) : Instr → List Seg
  | .reset _ => progReset c
  | .writeBit _ => progWriteBit c
  | .readBit _ => progReadBit c
  | .writeByte _ => progWriteByte c
  | .readByte _ => progReadByte c
  | .matchAddress _ => progMatchAddress c
  | .sendCommand _ => progSendCommand c
  | .searchFirst _ => progSearchFirst c
  | .crcClear _ => progCrcClear
  | .crcFeed _ => progCrcFeed
  | .crcCheck _ => progCrcCheck
  | .checkAddr _ => progCheckAddr
  | .readScratchpad _ => progReadScratchpad c
  | .readSensor _ => progReadSensor c

/-- Every command is offered in the same way (60_exceptions.md R146, R147). -/
theorem exec_eq (i : Instr) (s : State) : exec i s =
    .next (if s.busy then reject s else enter i.opcode (progOf s.cfg i) { acceptClears i (acceptFlags i.data s)
    with busy := true })  := by cases i <;> rfl

/-- The clears at acceptance touch no code, no DONE and no parameter. -/
theorem acceptClears_keeps (i s) : (acceptClears i s).cfg = s.cfg ∧ (acceptClears i s).done = s.done ∧
    (acceptClears i s).err = s.err := by
  cases i <;> exact ⟨rfl, rfl, rfl⟩

/-- What no assignment writes. -/
structure ActKeeps (s s' : State) : Prop where
  busy : s'.busy = s.busy
  done : s'.done = s.done
  err : s'.err = s.err
  cfg : s'.cfg = s.cfg
  rej : s'.rej = s.rej
  ie : s'.ie = s.ie
  cmdData : s'.cmdData = s.cmdData
  hostRdata : s'.hostRdata = s.hostRdata
  presc : s'.presc = s.presc

/-- The assignments write none of the fields of `ActKeeps`. -/
theorem runAct_keeps (a s) : ActKeeps s (runAct a s).1 := by
  cases a with
  | searchDecide => simp only [runAct]; cases pairDecide s.cfg.searchPairMap s.trueBit s.rdBit <;> constructor <;> rfl
  | sensorWrite => simp only [runAct]; cases resDecode s.cfg.resTable s.sp[4] <;> constructor <;> rfl
  | _ => constructor <;> rfl

/-- The block never raises code 6 (60_exceptions.md R145). -/
theorem runAct_err (a s e) (h : (runAct a s).2 = some e) : e ≠ .familyCodeMismatch := by
  cases a with
  | searchDecide => revert h; simp only [runAct]; cases pairDecide s.cfg.searchPairMap s.trueBit s.rdBit <;> simp; rintro rfl; simp
  | sensorWrite => revert h; simp only [runAct]; cases resDecode s.cfg.resTable s.sp[4] <;> simp; rintro rfl; simp
  | crcCheck => revert h; simp only [runAct]; split <;> simp; rintro rfl; simp
  | _ => simp [runAct] at h

/-- A segment is never longer than its budget. -/
theorem segTicks_le (s g) : segTicks s g ≤ segBudget s.cfg g := by
  cases g <;> simp only [segTicks, segBudget, slotLowTicks] <;> first | omega | (split <;> omega)

/-- Entering a list keeps what the assignments keep. -/
theorem enter_keeps (op : BitVec 4) (p : List Seg) (s : State) :
    (enter op p s).rej = s.rej ∧ (enter op p s).cmdData = s.cmdData ∧ (enter op p s).ie = s.ie ∧
      (enter op p s).cfg = s.cfg ∧ (enter op p s).presc = s.presc ∧ (enter op p s).hostRdata = s.hostRdata := by
  induction p generalizing s with
  | nil => exact ⟨rfl, rfl, rfl, rfl, rfl, rfl⟩
  | cons g r ih =>
    by_cases ht : g.timed = true
    · by_cases hz : segTicks s g = 0
      · rw [enter_skip _ _ _ _ ht hz]; exact ih s
      · rw [enter_timed _ _ _ _ hz]; exact ⟨rfl, rfl, rfl, rfl, rfl, rfl⟩
    · obtain ⟨a, rfl⟩ : ∃ a, g = .act a := by cases g <;> simp [Seg.timed] at ht ⊢
      have k := runAct_keeps a s
      cases hr : (runAct a s).2 with
      | none =>
        obtain ⟨i1, i2, i3, i4, i5, i6⟩ := ih (runAct a s).1
        rw [enter_act _ _ _ _ hr]
        exact ⟨i1.trans k.rej, i2.trans k.cmdData, i3.trans k.ie, i4.trans k.cfg, i5.trans k.presc,
            i6.trans k.hostRdata⟩
      | some e =>
        rw [enter_act_raise _ _ _ _ _ hr]
        exact ⟨k.rej, k.cmdData, k.ie, k.cfg, k.presc, k.hostRdata⟩

/-- A tick at a position in a segment. -/
theorem tick_running (op : BitVec 4) (g : Seg) (r : List Seg) (s : State) (line : Bool) (ht : g.timed = true)
    (hs : s.seq = .running op (g :: r)) : tick s line = tickSeg op g r line s := by
  cases g <;> simp [Seg.timed] at ht <;> simp only [tick, hs]

/-- Sampling the line writes PRES_SEEN and the pseudocode's bit, nothing else. -/
theorem sampleLine_keeps (g : Seg) (line : Bool) (s : State) :
    { sampleLine g line s with presSeen := s.presSeen, rdBit := s.rdBit } = s := by
  cases g <;> simp only [sampleLine] <;> split <;> rfl

/-- A tick keeps REJ, CMD_DATA, IE, the configuration, PRESC and the last read word. -/
theorem tick_keeps (s : State) (line : Bool) :
    (tick s line).rej = s.rej ∧ (tick s line).cmdData = s.cmdData ∧ (tick s line).ie = s.ie ∧
      (tick s line).cfg = s.cfg ∧ (tick s line).presc = s.presc ∧ (tick s line).hostRdata = s.hostRdata := by
  have hk (t : State) (h : { t with presSeen := s.presSeen, rdBit := s.rdBit } = s) :
      t.rej = s.rej ∧ t.cmdData = s.cmdData ∧ t.ie = s.ie ∧ t.cfg = s.cfg ∧ t.presc = s.presc ∧
        t.hostRdata = s.hostRdata := by
    rw [← h]; exact ⟨rfl, rfl, rfl, rfl, rfl, rfl⟩
  unfold tick
  split
  · exact ⟨rfl, rfl, rfl, rfl, rfl, rfl⟩
  · exact enter_keeps _ _ _
  · exact enter_keeps _ _ _
  · rename_i op g r _ _
    have h := hk _ (sampleLine_keeps g line s)
    unfold tickSeg
    simp only []
    split
    · split
      · have e := enter_keeps op r (sampleLine g line s)
        exact ⟨e.1.trans h.1, e.2.1.trans h.2.1, e.2.2.1.trans h.2.2.1, e.2.2.2.1.trans h.2.2.2.1,
          e.2.2.2.2.1.trans h.2.2.2.2.1, e.2.2.2.2.2.trans h.2.2.2.2.2⟩
      · exact h
    · exact h

end Sys2Proof.Machine
end

