-- ==== Sys2Proof/Laws/Segments.lean ====
section
/-! SUPPORT. The runs of the sampled segments, the slots, the bytes and the RESET sequence, one lemma each
(40_bus_primitives.md R83 to R88, 41_bytes_and_select.md R95, R98). -/

namespace Sys2Proof.Machine

/-! ### Parameters in range -/

/-- The facts of 00_scope.md R8 as inequalities. -/
theorem inRange_facts {c : Config} (h : c.inRange = true) :
    1 ≤ c.clkPerUs ∧ 250 ≤ c.tWaitHighMax ∧ 480 ≤ c.tRstl ∧ 504 ≤ c.tPdwin ∧ 1 ≤ c.tW1l ∧ c.tW1l ≤ 15 ∧
      60 ≤ c.tW0l ∧ c.tW0l ≤ c.tWslot ∧ 80 ≤ c.tWslot ∧ 1 ≤ c.tRec ∧ 1 ≤ c.tRl ∧ c.tRl + c.tRs ≤ 15 ∧
      c.tRl + c.tRs + 1 ≤ c.tRslot := by
  simp only [Config.inRange, Bool.and_eq_true, decide_eq_true_eq] at h
  omega

theorem slotLow_le {c : Config} (h : c.inRange = true) (b : Bool) : slotLowTicks c b ≤ c.tWslot := by
  have := inRange_facts h
  cases b <;> simp [slotLowTicks] <;> omega

theorem slotTicks_pos {c : Config} (h : c.inRange = true) : 0 < slotTicks c := by
  have := inRange_facts h
  simp only [slotTicks]; omega

/-! ### REL_S -/

theorem tick_relS (op : BitVec 4) (n : Nat) (rest : List Seg) (k : Nat) (s : State) (line : Bool) :
    tick (pos op (.relS n :: rest) k s) line =
      (let s1 := if k = 0 then { s with rdBit := line } else s
       if k + 1 < n then pos op (.relS n :: rest) (k + 1) s1 else enter op rest s1) := by
  rw [tick_pos op _ rest k s line rfl]
  have he : enter op rest (sampleLine (.relS n) line (pos op (.relS n :: rest) k s))
      = enter op rest (if k = 0 then { s with rdBit := line } else s) := by
    by_cases hk : k = 0
    · simp only [hk, sampleLine, pos_waitCnt, if_true]
      exact enter_pos op rest op (.relS n :: rest) 0 { s with rdBit := line }
    · simp only [hk, sampleLine, pos_waitCnt, if_false, enter_pos]
  have hs : segEnds (.relS n) line (sampleLine (.relS n) line (pos op (.relS n :: rest) k s)) = decide (n ≤ k + 1) := by
    by_cases hk : k = 0 <;> simp [hk, sampleLine, segEnds, segTicks, pos]
  simp only [tickSeg, segError, he, hs]
  by_cases h : k + 1 < n
  · rw [if_neg (by simpa using h), if_pos h]
    by_cases hk : k = 0 <;> simp [hk, sampleLine, pos]
  · rw [if_pos (by simpa using h), if_neg h]

theorem ticks_relS (op : BitVec 4) (n : Nat) (rest : List Seg) (s : State) (line : Nat → Bool) (k : Nat) (hk : k < n) :
    ticks line k (enter op (.relS n :: rest) s) =
      pos op (.relS n :: rest) k (if k = 0 then s else { s with rdBit := line 0 }) := by
  induction k with
  | zero => rw [ticks_zero, enter_timed op _ rest s (by simp only [segTicks]; omega)]; rfl
  | succ k ih =>
    rw [ticks_succ, ih (by omega), tick_relS]
    cases k <;> simp <;> omega

/-- The sampled segment: the level of its first tick is latched (00_scope.md R15). -/
theorem Runs.relS {op : BitVec 4} {n : Nat} {line : Nat → Bool} {s : State} (hn : 0 < n) (hb : s.busy = true) :
    Runs op [.relS n] line n s { s with rdBit := line 0 } (fun _ => false) := by
  intro rest
  refine ⟨?_, fun k hk => ?_⟩
  · obtain ⟨m, rfl⟩ : ∃ m, n = m + 1 := ⟨n - 1, by omega⟩
    rw [List.singleton_append, ticks_succ, ticks_relS op _ rest s line m (by omega), tick_relS]
    cases m <;> simp
  · rw [List.singleton_append, ticks_relS op n rest s line k hk, drive_pos, pos_busy]
    refine ⟨?_, rfl⟩
    split <;> exact hb

/-! ### WAIT_HIGH -/

theorem tick_waitHigh (op : BitVec 4) (m : Nat) (rest : List Seg) (k : Nat) (s : State) (line : Bool) :
    tick (pos op (.waitHigh m :: rest) k s) line =
      if line then enter op rest s
      else if k + 1 < m then pos op (.waitHigh m :: rest) (k + 1) s
      else raise .busNotHighTimeout (pos op (.waitHigh m :: rest) k s) := by
  rw [tick_pos op _ rest k s line rfl]
  cases line
  · have hs : segEnds (.waitHigh m) false (sampleLine (.waitHigh m) false (pos op (.waitHigh m :: rest) k s))
        = decide (m ≤ k + 1) := rfl
    simp only [tickSeg, hs]
    by_cases h : k + 1 < m
    · rw [if_neg (by simpa using h), if_neg (by simp), if_pos h]; rfl
    · rw [if_pos (by simpa using h), if_neg (by simp), if_neg h]; rfl
  · simp [tickSeg, sampleLine, segEnds, segError]

theorem ticks_waitHigh (op : BitVec 4) (m : Nat) (rest : List Seg) (s : State) (line : Nat → Bool) (k : Nat) (hk : k < m)
    (hl : ∀ j, j < k → line j = false) :
    ticks line k (enter op (.waitHigh m :: rest) s) = pos op (.waitHigh m :: rest) k s := by
  induction k with
  | zero => rw [ticks_zero, enter_timed op _ rest s (by simp only [segTicks]; omega)]
  | succ k ih =>
    rw [ticks_succ, ih (by omega) (fun j hj => hl j (by omega)), tick_waitHigh, hl k (by omega), if_neg (by simp), if_pos hk]

/-- WAIT_HIGH on a line that is high on tick `w` (40_bus_primitives.md R83). -/
theorem Runs.waitHigh {op : BitVec 4} {m w : Nat} {line : Nat → Bool} {s : State} (h : highAfter line m w)
    (hb : s.busy = true) : Runs op [.waitHigh m] line w s s (fun _ => false) := by
  obtain ⟨h1, h2, hl, hh⟩ := h
  intro rest
  rw [List.singleton_append]
  refine ⟨?_, fun k hk => ?_⟩
  · obtain ⟨v, rfl⟩ : ∃ v, w = v + 1 := ⟨w - 1, by omega⟩
    rw [ticks_succ, ticks_waitHigh op m rest s line v (by omega) (fun j hj => hl j (by omega)), tick_waitHigh]
    rw [if_pos (by simpa using hh)]
  · rw [ticks_waitHigh op m rest s line k (by omega) (fun j hj => hl j (by omega)), drive_pos]
    exact ⟨hb, rfl⟩

/-- WAIT_HIGH on a line that stays low (40_bus_primitives.md R83). -/
theorem ticks_waitHigh_timeout (op : BitVec 4) (m : Nat) (rest : List Seg) (s : State) (line : Nat → Bool) (hm : 0 < m)
    (hl : ∀ j, j < m → line j = false) :
    ticks line m (enter op (.waitHigh m :: rest) s) = raise .busNotHighTimeout (pos op (.waitHigh m :: rest) (m - 1) s) := by
  obtain ⟨v, rfl⟩ : ∃ v, m = v + 1 := ⟨m - 1, by omega⟩
  rw [ticks_succ, ticks_waitHigh op _ rest s line v (by omega) (fun j hj => hl j (by omega)), tick_waitHigh, hl v (by omega)]
  simp

/-! ### PRES -/

/-- Some tick before the k-th read low. -/
def lowSeen (line : Nat → Bool) (k : Nat) : Bool := (List.range k).any fun j => !line j

theorem lowSeen_succ (line : Nat → Bool) (k : Nat) : lowSeen line (k + 1) = (lowSeen line k || !line k) := by
  simp [lowSeen, List.range_succ]

theorem lowSeen_true {line : Nat → Bool} {n : Nat} : lowSeen line n = true ↔ ∃ j, j < n ∧ line j = false := by
  simp [lowSeen]

theorem tick_pres (op : BitVec 4) (n : Nat) (rest : List Seg) (k : Nat) (s : State) (line : Bool) :
    tick (pos op (.pres n :: rest) k s) line =
      (let s1 := { s with presSeen := s.presSeen || !line }
       if k + 1 < n then pos op (.pres n :: rest) (k + 1) s1
       else if s1.presSeen then enter op rest s1
       else raise .deviceNotPresent (pos op (.pres n :: rest) k s1)) := by
  rw [tick_pos op _ rest k s line rfl]
  have he := enter_pos op rest op (.pres n :: rest) k { s with presSeen := s.presSeen || !line }
  have hs : segEnds (.pres n) line (sampleLine (.pres n) line (pos op (.pres n :: rest) k s)) = decide (n ≤ k + 1) := rfl
  have hg : segError (.pres n) line (sampleLine (.pres n) line (pos op (.pres n :: rest) k s))
      = if (s.presSeen || !line) = true then none else some .deviceNotPresent := rfl
  simp only [tickSeg, hs, hg]
  by_cases h : k + 1 < n
  · rw [if_neg (by simpa using h), if_pos h]; rfl
  · rw [if_pos (by simpa using h), if_neg h]
    by_cases hl : (s.presSeen || !line) = true
    · rw [if_pos hl, if_pos hl, ← he]; rfl
    · rw [if_neg hl, if_neg hl]; rfl

theorem ticks_pres (op : BitVec 4) (n : Nat) (rest : List Seg) (s : State) (line : Nat → Bool) (hs : s.presSeen = false)
    (k : Nat) (hk : k < n) :
    ticks line k (enter op (.pres n :: rest) s) = pos op (.pres n :: rest) k { s with presSeen := lowSeen line k } := by
  induction k with
  | zero =>
    rw [ticks_zero, enter_timed op _ rest s (by simp only [segTicks]; omega)]
    simp [pos, lowSeen, ← hs]
  | succ k ih =>
    rw [ticks_succ, ih (by omega), tick_pres]
    simp only [if_pos hk, lowSeen_succ]

/-- The window with a low sample (40_bus_primitives.md R84). -/
theorem Runs.pres {op : BitVec 4} {n : Nat} {line : Nat → Bool} {s : State} (hs : s.presSeen = false) (hb : s.busy = true)
    (hl : ∃ j, j < n ∧ line j = false) :
    Runs op [.pres n] line n s { s with presSeen := true } (fun _ => false) := by
  intro rest
  rw [List.singleton_append]
  refine ⟨?_, fun k hk => ?_⟩
  · obtain ⟨m, rfl⟩ : ∃ m, n = m + 1 := ⟨n - 1, by obtain ⟨j, hj, -⟩ := hl; omega⟩
    have hseen := lowSeen_true.2 hl
    rw [lowSeen_succ] at hseen
    rw [ticks_succ, ticks_pres op _ rest s line hs m (by omega), tick_pres]
    simp [hseen]
  · rw [ticks_pres op n rest s line hs k hk, drive_pos]
    exact ⟨hb, rfl⟩

/-- The window without a low sample (40_bus_primitives.md R84). -/
theorem ticks_pres_none (op : BitVec 4) (n : Nat) (rest : List Seg) (s : State) (line : Nat → Bool)
    (hs : s.presSeen = false) (hn : 0 < n) (hl : ∀ j, j < n → line j = true) :
    ticks line n (enter op (.pres n :: rest) s) = raise .deviceNotPresent (pos op (.pres n :: rest) (n - 1) s) := by
  obtain ⟨m, rfl⟩ : ∃ m, n = m + 1 := ⟨n - 1, by omega⟩
  have h0 : lowSeen line m = false := by
    cases h : lowSeen line m with
    | false => rfl
    | true =>
      obtain ⟨j, hj, hf⟩ := lowSeen_true.1 h
      simp [hl j (by omega)] at hf
  rw [ticks_succ, ticks_pres op _ rest s line hs m (by omega), tick_pres, h0, hl m (by omega)]
  simp [pos, ← hs]

/-! ### Slots -/

/-- The write slot (40_bus_primitives.md R85). -/
theorem Runs.wslot {op : BitVec 4} {src : BitSrc} {line : Nat → Bool} {s : State} (hr : s.cfg.inRange = true)
    (hb : s.busy = true) :
    Runs op (wslot s.cfg src) line (slotTicks s.cfg) s s
      (fun k => decide (k < slotLowTicks s.cfg (readBitSrc s src))) := by
  have hle := slotLow_le hr (readBitSrc s src)
  have h1 : Runs op [.slotLow src] line (slotLowTicks s.cfg (readBitSrc s src)) s s (fun _ => true) := Runs.plain rfl hb
  have h2 (l) : Runs op [.slotRel src] l (s.cfg.tWslot - slotLowTicks s.cfg (readBitSrc s src)) s s (fun _ => false) :=
    Runs.plain rfl hb
  have h3 (l) : Runs op [.rel s.cfg.tRec] l s.cfg.tRec s s (fun _ => false) := Runs.plain rfl hb
  have h := h1.append ((h2 _).append (h3 _))
  have e : slotLowTicks s.cfg (readBitSrc s src) + (s.cfg.tWslot - slotLowTicks s.cfg (readBitSrc s src) + s.cfg.tRec)
      = slotTicks s.cfg := by simp only [slotTicks]; omega
  rw [e] at h
  refine h.congr fun k _ => ?_
  by_cases hk : k < slotLowTicks s.cfg (readBitSrc s src) <;> simp [hk]

/-- The read slot (40_bus_primitives.md R87). -/
theorem Runs.rslot {op : BitVec 4} {line : Nat → Bool} {s : State} (hr : s.cfg.inRange = true) (hb : s.busy = true) :
    Runs op (rslot s.cfg) line s.cfg.tRslot s { s with rdBit := line (sampleTick s.cfg) }
      (fun k => decide (k < s.cfg.tRl)) := by
  have hf := inRange_facts hr
  have h1 : Runs op [.low s.cfg.tRl] line s.cfg.tRl s s (fun _ => true) := Runs.plain rfl hb
  have h2 (l) : Runs op [.rel s.cfg.tRs] l s.cfg.tRs s s (fun _ => false) := Runs.plain rfl hb
  have h3 (l : Nat → Bool) : Runs op [.relS (s.cfg.tRslot - s.cfg.tRl - s.cfg.tRs)] l
      (s.cfg.tRslot - s.cfg.tRl - s.cfg.tRs) s { s with rdBit := l 0 } (fun _ => false) := Runs.relS (by omega) hb
  have h := h1.append ((h2 _).append (h3 _))
  have e : s.cfg.tRl + (s.cfg.tRs + (s.cfg.tRslot - s.cfg.tRl - s.cfg.tRs)) = s.cfg.tRslot := by omega
  rw [e] at h
  refine Runs.congr (w := _) h fun k _ => ?_
  by_cases hk : k < s.cfg.tRl <;> simp [hk]

/-! ### Bytes -/

/-- The state between the bits of `WBYTE(d)` (41_bytes_and_select.md R95). -/
def sending (d : Byte) (s : State) (i : Nat) : State := { s with shift := d >>> i, bitCnt := Fin.ofNat 9 i }

/-- One byte sent, least significant bit first (41_bytes_and_select.md R95). -/
theorem Runs.wbyte {op : BitVec 4} {src : ByteSrc} {line : Nat → Bool} {s : State} (hr : s.cfg.inRange = true)
    (hb : s.busy = true) :
    Runs op (wbyte s.cfg src) line (8 * slotTicks s.cfg) s (sending (readByteSrc s src) s 8)
      (writeWave s.cfg (fun i => (readByteSrc s src).getLsbD i)) := by
  have h0 : Runs op [.act (.loadShift src)] line 0 s (sending (readByteSrc s src) s 0) (fun _ => false) := by
    have := Runs.act (op := op) (a := .loadShift src) (line := line) (s := s) (w := fun _ => false) rfl
    simpa [runAct, sending] using this
  have hbit (i : Nat) (l : Nat → Bool) :
      Runs op (Machine.wslot s.cfg .shift0 ++ [.act .shiftOut]) l (slotTicks s.cfg) (sending (readByteSrc s src) s i)
        (sending (readByteSrc s src) s (i + 1))
        (fun k => decide (k < slotLowTicks s.cfg ((readByteSrc s src).getLsbD i))) := by
    have h1 := Runs.wslot (op := op) (src := .shift0) (line := l) (s := sending (readByteSrc s src) s i) hr hb
    have h2 : Runs op [.act .shiftOut] (fun k => l (slotTicks s.cfg + k)) 0 (sending (readByteSrc s src) s i)
        (sending (readByteSrc s src) s (i + 1)) (fun _ => false) := by
      have := Runs.act (op := op) (a := .shiftOut) (line := fun k => l (slotTicks s.cfg + k))
        (s := sending (readByteSrc s src) s i) (w := fun _ => false) rfl
      simpa [runAct, sending, BitVec.shiftRight_add, Fin.ofNat, Fin.add_def] using this
    refine (h1.append h2).congr fun k hk => ?_
    have : k < slotTicks s.cfg := hk
    rw [if_pos (by exact this)]
    simp [sending, readBitSrc]
  have h8 := Runs.range (op := op) (f := fun _ => Machine.wslot s.cfg .shift0 ++ [.act .shiftOut]) (line := line)
    (sending (readByteSrc s src) s)
    (fun i k => decide (k < slotLowTicks s.cfg ((readByteSrc s src).getLsbD i))) 8 (fun i _ => hbit i _)
  have h := h0.append (b2 := (List.range 8).flatMap fun _ => Machine.wslot s.cfg .shift0 ++ [.act .shiftOut])
    (by simpa using h8)
  simp only [Nat.zero_add] at h
  have e : Machine.wbyte s.cfg src = [.act (.loadShift src)] ++
      (List.range 8).flatMap fun _ => Machine.wslot s.cfg .shift0 ++ [.act .shiftOut] := by
    rw [Machine.wbyte, rounds_eq]; rfl
  rw [e]
  exact h.congr fun k _ => by simp [writeWave]

/-- Several bytes sent, one after the other (20_memory.md R62). -/
theorem Runs.wbytes {op : BitVec 4} (srcs : List ByteSrc) {line : Nat → Bool} {s : State} (hr : s.cfg.inRange = true)
    (hb : s.busy = true) :
    ∃ sh bc, Runs op (srcs.flatMap (Machine.wbyte s.cfg)) line (srcs.length * (8 * slotTicks s.cfg)) s
      { s with shift := sh, bitCnt := bc } (writeWave s.cfg (wireBits (srcs.map (readByteSrc s)))) := by
  induction srcs generalizing s line with
  | nil => exact ⟨s.shift, s.bitCnt, by simpa using Runs.nil op line s _⟩
  | cons x xs ih =>
    have h1 := Runs.wbyte (op := op) (src := x) (line := line) hr hb
    obtain ⟨sh, bc, h2⟩ := ih (s := sending (readByteSrc s x) s 8) (line := fun k => line (8 * slotTicks s.cfg + k)) hr hb
    refine ⟨sh, bc, ?_⟩
    have h := h1.append h2
    have e : 8 * slotTicks s.cfg + xs.length * (8 * slotTicks (sending (readByteSrc s x) s 8).cfg)
        = (x :: xs).length * (8 * slotTicks s.cfg) := by
      simp only [List.length_cons, sending, Nat.add_mul]; omega
    rw [e] at h
    refine Runs.congr (w := _) h fun k _ => ?_
    have hs : 0 < slotTicks s.cfg := slotTicks_pos hr
    have hmap : xs.map (readByteSrc (sending (readByteSrc s x) s 8)) = xs.map (readByteSrc s) := by
      refine List.map_congr_left fun y _ => ?_
      cases y <;> rfl
    rw [hmap]
    by_cases hk : k < 8 * slotTicks s.cfg
    · have hd : k / slotTicks s.cfg < 8 := Nat.div_lt_of_lt_mul (by rw [Nat.mul_comm]; omega)
      simp [hk, writeWave, wireBits, Nat.div_eq_of_lt hd, Nat.mod_eq_of_lt hd]
    · obtain ⟨r, rfl⟩ : ∃ r, k = r + 8 * slotTicks s.cfg := ⟨k - 8 * slotTicks s.cfg, by omega⟩
      have hd : (r + 8 * slotTicks s.cfg) / slotTicks s.cfg = r / slotTicks s.cfg + 8 := Nat.add_mul_div_right _ _ hs
      have hd8 : (r / slotTicks s.cfg + 8) / 8 = r / slotTicks s.cfg / 8 + 1 := by omega
      simp [hk, writeWave, wireBits, hd, hd8, sending]

/-- The shift register after `n` read slots whose samples are `b` (41_bytes_and_select.md R95). -/
def shiftedIn (b : Nat → Bool) : Nat → Byte
  | 0 => 0
  | n + 1 => (BitVec.ofBool (b n) ++ (shiftedIn b n).extractLsb' 1 7 : BitVec 8)

/-- Bit `i` of a received byte is the sample of slot `i` (41_bytes_and_select.md R95). -/
theorem shiftedIn_bit (b : Nat → Bool) (i : Nat) (hi : i < 8) : (shiftedIn b 8).getLsbD i = b i := by
  simp only [shiftedIn, BitVec.getLsbD_append, BitVec.getLsbD_extractLsb', BitVec.getLsbD_ofBool]
  have : i = 0 ∨ i = 1 ∨ i = 2 ∨ i = 3 ∨ i = 4 ∨ i = 5 ∨ i = 6 ∨ i = 7 := by omega
  rcases this with rfl | rfl | rfl | rfl | rfl | rfl | rfl | rfl <;> simp

/-- The state between the bits of `RBYTE` (41_bytes_and_select.md R95). -/
def receiving (b : Nat → Bool) (s : State) (i : Nat) : State :=
  { s with shift := shiftedIn b i, bitCnt := Fin.ofNat 9 i, rdBit := if i = 0 then s.rdBit else b (i - 1) }

/-- One byte received, least significant bit first (41_bytes_and_select.md R95). -/
theorem Runs.rbyte {op : BitVec 4} {line : Nat → Bool} {s : State} (hr : s.cfg.inRange = true) (hb : s.busy = true) :
    Runs op (rbyte s.cfg) line (8 * s.cfg.tRslot) s
      (receiving (fun i => line (i * s.cfg.tRslot + sampleTick s.cfg)) s 8) (readWave s.cfg) := by
  have h0 : Runs op [.act .clearShift] line 0 s (receiving (fun i => line (i * s.cfg.tRslot + sampleTick s.cfg)) s 0)
      (fun _ => false) := by
    have := Runs.act (op := op) (a := .clearShift) (line := line) (s := s) (w := fun _ => false) rfl
    simpa [runAct, receiving, shiftedIn] using this
  have hbit (i : Nat) :
      Runs op (Machine.rslot s.cfg ++ [.act .shiftIn]) (fun k => line (i * s.cfg.tRslot + k)) s.cfg.tRslot
        (receiving (fun i => line (i * s.cfg.tRslot + sampleTick s.cfg)) s i)
        (receiving (fun i => line (i * s.cfg.tRslot + sampleTick s.cfg)) s (i + 1))
        (fun k => decide (k < s.cfg.tRl)) := by
    have h1 := Runs.rslot (op := op) (line := fun k => line (i * s.cfg.tRslot + k))
      (s := receiving (fun i => line (i * s.cfg.tRslot + sampleTick s.cfg)) s i) hr hb
    have h2 := Runs.act (op := op) (a := .shiftIn) (line := fun k => line (i * s.cfg.tRslot + (s.cfg.tRslot + k)))
      (s := { receiving (fun i => line (i * s.cfg.tRslot + sampleTick s.cfg)) s i with
        rdBit := line (i * s.cfg.tRslot + sampleTick s.cfg) }) (w := fun _ => false) rfl
    have h := h1.append h2
    have e : (runAct .shiftIn { receiving (fun i => line (i * s.cfg.tRslot + sampleTick s.cfg)) s i with
        rdBit := line (i * s.cfg.tRslot + sampleTick s.cfg) }).1
        = receiving (fun i => line (i * s.cfg.tRslot + sampleTick s.cfg)) s (i + 1) := by
      simp [runAct, receiving, shiftedIn, Fin.ofNat, Fin.add_def]
    rw [e] at h
    refine Runs.congr (w := _) h fun k hk => ?_
    have : k < s.cfg.tRslot := by simpa [receiving] using hk
    simp [receiving, this]
  have h8 := Runs.range (op := op) (f := fun _ => Machine.rslot s.cfg ++ [.act .shiftIn]) (line := line)
    (receiving (fun i => line (i * s.cfg.tRslot + sampleTick s.cfg)) s)
    (fun _ k => decide (k < s.cfg.tRl)) 8 (fun i _ => hbit i)
  have h := h0.append (b2 := (List.range 8).flatMap fun _ => Machine.rslot s.cfg ++ [.act .shiftIn])
    (by simpa using h8)
  simp only [Nat.zero_add] at h
  have e : Machine.rbyte s.cfg = [.act .clearShift] ++
      (List.range 8).flatMap fun _ => Machine.rslot s.cfg ++ [.act .shiftIn] := by
    rw [Machine.rbyte, rounds_eq]; rfl
  rw [e]
  exact h.congr fun k _ => by simp [readWave]

/-! ### The RESET and MATCH_ADDRESS sequences -/

theorem Runs.waitAndLow {op : BitVec 4} {line : Nat → Bool} {s : State} {w : Nat}
    (hh : highAfter line s.cfg.tWaitHighMax w) (hb : s.busy = true) :
    Runs op [.waitHigh s.cfg.tWaitHighMax, .low s.cfg.tRstl] line (w + s.cfg.tRstl) s s (resetWave s.cfg w) := by
  have h1 : Runs op [.waitHigh s.cfg.tWaitHighMax] line w s s (fun _ => false) := Runs.waitHigh hh hb
  have h2 (l) : Runs op [.low s.cfg.tRstl] l s.cfg.tRstl s s (fun _ => true) := Runs.plain rfl hb
  refine (h1.append (h2 _)).congr fun k hk => ?_
  by_cases hw : k < w
  · simp [hw, resetWave]
  · simp [hw, resetWave]; omega

/-- The RESET sequence on a bus that answers (40_bus_primitives.md R88). -/
theorem Runs.resetSeq {op : BitVec 4} {line : Nat → Bool} {s : State} {w : Nat}
    (hh : highAfter line s.cfg.tWaitHighMax w) (hp : presence s.cfg line w) (hb : s.busy = true) :
    Runs op (resetSeq s.cfg) line (resetTicks s.cfg w) s { s with presSeen := true } (resetWave s.cfg w) := by
  have h1 := Runs.waitAndLow (op := op) hh hb
  have h2 (l) := Runs.act (op := op) (a := .clearPres) (line := l) (s := s) (w := fun _ => false) rfl
  have h3 : Runs op [.pres s.cfg.tPdwin] (fun k => line (w + s.cfg.tRstl + (0 + k))) s.cfg.tPdwin
      (runAct .clearPres s).1 { (runAct .clearPres s).1 with presSeen := true } (fun _ => false) := by
    refine Runs.pres rfl hb ?_
    simpa [presence] using hp
  have h := (h1.append ((h2 _).append h3)).congr (w' := resetWave s.cfg w) fun k hk => by
    by_cases hw : k < w + s.cfg.tRstl
    · simp [hw]
    · simp [hw, resetWave]
  simpa [resetTicks, runAct, Machine.resetSeq, Nat.add_assoc] using h

/-- The sources of the bytes of MATCH_ADDRESS (41_bytes_and_select.md R98). -/
def matchSrcs (c : Config) : List ByteSrc := .const c.cmdMatchRom :: (List.finRange 8).map .romByte

theorem matchSeq_eq (c : Config) : matchSeq c = (matchSrcs c).flatMap (wbyte c) := by
  simp only [matchSeq, matchSrcs, List.flatMap_cons, List.flatMap_map]

theorem matchSrcs_bytes (s : State) : (matchSrcs s.cfg).map (readByteSrc s) = matchBytes s := by
  simp [matchSrcs, matchBytes, romBytes, readByteSrc]

end Sys2Proof.Machine
end

