-- ==== Sys2Proof/Laws/Commands.lean ====
section
/-! SUPPORT. Runs of the long sequences: acceptance, the failures of RESET, RESET and bytes. -/

namespace Sys2Proof.Machine

/-- The state of an accepted word before SEQ is entered (60_exceptions.md R146). -/
def accepted (d : Byte) (f : State → State) (s : State) : State := { f (acceptFlags d s) with busy := true }

/-- A command offered while BUSY = 0 is accepted. -/
theorem offer_idle (op d f p s) (h : s.busy = false) : offer op d f p s = .next (enter op p (accepted d f s)) := by
  simp [offer, h, accept, accepted]

/-- A run keeps BUSY at 1. -/
theorem busyFor_of {op body line n s s' w} (h : Runs op body line n s s' w) (rest) :
    busyFor line n (enter op (body ++ rest) s) := fun k hk => ((h rest).2 k hk).1

/-- A run drives the line by its wave. -/
theorem drive_of {op body line n s s' w} (h : Runs op body line n s s' w) (rest) :
    ∀ k, k < n → drive (ticks line k (enter op (body ++ rest) s)) = w k := fun k hk => ((h rest).2 k hk).2

/-- A list that begins with the RESET sequence ends by its two errors (40_bus_primitives.md R88). -/
theorem resetFails_of (i : Instr) (op : BitVec 4) (f) (rest : List Seg) (s : State) (hr : s.cfg.inRange = true)
   (hf : ∀ s, (accepted i.data f s).cfg = s.cfg) (ha : ∀ e : ErrCode, (raise e (accepted i.data f s)).visible =
       (ended i.data e (acceptClears i s)).visible) :
   resetFails i s (enter op (resetSeq s.cfg ++ rest) (accepted i.data f s)) := by
  have hfacts := inRange_facts hr
  intro line
  have hc := hf s
  constructor
  · intro hl
    have h0 : ∀ k, k < s.cfg.tWaitHighMax → ticks line k (enter op (resetSeq s.cfg ++ rest) (accepted i.data f s)) =
        pos op (resetSeq s.cfg ++ rest) k (accepted i.data f s) := fun k hk =>
      ticks_waitHigh op _ _ _ line k hk (fun j hj => hl j (by omega))
    refine ⟨fun k hk => by rw [h0 k hk]; rfl, fun k hk => by rw [h0 k hk]; rfl, ?_⟩
    have := ticks_waitHigh_timeout op s.cfg.tWaitHighMax ([.low s.cfg.tRstl, .act .clearPres, .pres s.cfg.tPdwin]
        ++ rest) (accepted i.data f s) line (by omega) hl
    have e : ticks line s.cfg.tWaitHighMax (enter op (resetSeq s.cfg ++ rest) (accepted i.data f s)) = _ := this
    rw [e, ← ha]; rfl
  · intro w hh hp
    have hall : ∀ j, j < s.cfg.tPdwin → line (w + s.cfg.tRstl + j) = true := by
      intro j hj
      by_contra hne
      exact hp ⟨j, hj, by simpa using hne⟩
    have h1 := Runs.waitAndLow (op := op) (line := line) (s := accepted i.data f s) (w := w) (by rw [hc]; exact hh) rfl
    rw [hc] at h1
    have e1 := (h1 ([.act .clearPres, .pres s.cfg.tPdwin] ++ rest))
    have eq : ([.waitHigh s.cfg.tWaitHighMax, .low s.cfg.tRstl] ++ ([.act .clearPres, .pres s.cfg.tPdwin] ++ rest)
        : List Seg) = resetSeq s.cfg ++ rest := rfl
    rw [eq] at e1
    obtain ⟨e1, e1'⟩ := e1
    let s2 := { accepted i.data f s with presSeen := false }
    have e2 : enter op ([.act .clearPres, .pres s.cfg.tPdwin] ++ rest) (accepted i.data f s) =
        enter op (.pres s.cfg.tPdwin :: rest) s2 := enter_act op .clearPres _ _ rfl
    rw [e2] at e1
    have hmid : ∀ k, k < s.cfg.tPdwin →
        ticks line (w + s.cfg.tRstl + k) (enter op (resetSeq s.cfg ++ rest) (accepted i.data f s)) =
          pos op (.pres s.cfg.tPdwin :: rest) k
            { s2 with presSeen := lowSeen (fun k => line (w + s.cfg.tRstl + k)) k } := by
      intro k hk
      rw [ticks_add, e1, ticks_pres op _ rest s2 _ rfl k hk]
    refine ⟨?_, ?_, ?_⟩
    · intro k hk
      by_cases hlt : k < w + s.cfg.tRstl
      · exact (e1' k hlt).1
      · obtain ⟨j, rfl⟩ : ∃ j, k = w + s.cfg.tRstl + j := ⟨k - (w + s.cfg.tRstl), by omega⟩
        rw [hmid j (by simp only [resetTicks] at hk; omega)]; rfl
    · intro k hk
      by_cases hlt : k < w + s.cfg.tRstl
      · exact (e1' k hlt).2
      · obtain ⟨j, rfl⟩ : ∃ j, k = w + s.cfg.tRstl + j := ⟨k - (w + s.cfg.tRstl), by omega⟩
        rw [hmid j (by simp only [resetTicks] at hk; omega)]
        simp [Seg.driven, resetWave]
    · rw [resetTicks, ticks_add, e1, ticks_pres_none op _ rest s2 _ rfl (by omega) hall, ← ha]; rfl

/-- The RESET sequence, then bytes (41_bytes_and_select.md R99). -/
theorem runs_resetThen {op} (srcs : List ByteSrc) {line} {s : State} {w} (hr : s.cfg.inRange = true) (hb : s.busy =
    true)
   (hh : highAfter line s.cfg.tWaitHighMax w) (hp : presence s.cfg line w) :
   ∃ sh bc, Runs op (resetSeq s.cfg ++ srcs.flatMap (wbyte s.cfg))
       line (resetTicks s.cfg w + srcs.length * (8 * slotTicks s.cfg)) s
     {s with presSeen := true, shift := sh, bitCnt := bc} (resetThenBytes s.cfg w (srcs.map (readByteSrc s))) := by
  have h := Runs.resetSeq (op := op) hh hp hb
  obtain ⟨sh, bc, h2⟩ := Runs.wbytes (op := op) srcs (line := fun k => line (resetTicks s.cfg w + k)) (s :=
      {s with presSeen := true}) hr hb
  refine ⟨sh, bc, (h.append h2).congr fun k hk => ?_⟩
  have hmap : srcs.map (readByteSrc {s with presSeen := true}) = srcs.map (readByteSrc s) := by
      refine List.map_congr_left fun y _ => ?_
      cases y <;> rfl
  rw [hmap]; rfl

/-- A command of one released tick (43_crc8.md R122). -/
theorem tick_rel_one (op rest s line) : tick (enter op (.rel 1 :: rest) s) line = enter op rest s :=
  ticks_plain_end op (.rel 1) rest s (fun _ => line) rfl

/-- The CRC check (43_crc8.md R124). -/
theorem enter_crcCheck {op rest} (s : State) : enter op (.act .crcCheck :: rest) s = if s.crc =
    0 then enter op rest s else raise .checksumFailed {s with waitCnt := 0} := by
  by_cases h : s.crc = 0
  · rw [if_pos h]; exact enter_act _ .crcCheck _ _ (by simp [runAct, h])
  · rw [if_neg h]; exact enter_act_raise _ .crcCheck _ _ _ (by simp [runAct]; exact h)

end Sys2Proof.Machine
end

