-- ==== Sys2Proof/Laws/PerInstr.lean ====
section
/-! SUPPORT. Statements made for each command by itself: the fields of its encoded word (30_encoding.md R70, R72). -/

namespace Sys2Proof.Laws

/-- A command word put together from an opcode and a DATA byte. -/
def wordOf (op : BitVec 4) (d : Byte) : Word := (0#16 ++ d ++ 0#4 ++ op : BitVec 32)

theorem opField_wordOf (op : BitVec 4) (d : Byte) : opField (wordOf op d) = op := by
  refine BitVec.eq_of_getLsbD_eq fun i hi => ?_
  simp only [opField, wordOf, BitVec.getLsbD_extractLsb', BitVec.getLsbD_append]
  simp [hi]

theorem rsv0Field_wordOf (op : BitVec 4) (d : Byte) : rsv0Field (wordOf op d) = 0 := by
  refine BitVec.eq_of_getLsbD_eq fun i hi => ?_
  simp only [rsv0Field, wordOf, BitVec.getLsbD_extractLsb', BitVec.getLsbD_append]
  simp [hi]

theorem dataField_wordOf (op : BitVec 4) (d : Byte) : dataField (wordOf op d) = d := by
  refine BitVec.eq_of_getLsbD_eq fun i hi => ?_
  have h1 : ¬ 8 + i < 4 := by omega
  have h2 : ¬ 8 + i - 4 < 4 := by omega
  have h3 : 8 + i - 4 - 4 = i := by omega
  simp only [dataField, wordOf, BitVec.getLsbD_extractLsb', BitVec.getLsbD_append, h1, h2, h3]
  simp [hi]

theorem rsv1Field_wordOf (op : BitVec 4) (d : Byte) : rsv1Field (wordOf op d) = 0 := by
  refine BitVec.eq_of_getLsbD_eq fun i hi => ?_
  have h1 : ¬ 16 + i < 4 := by omega
  have h2 : ¬ 16 + i - 4 < 4 := by omega
  have h3 : ¬ 16 + i - 4 - 4 < 8 := by omega
  simp only [rsv1Field, wordOf, BitVec.getLsbD_extractLsb', BitVec.getLsbD_append, h1, h2, h3]
  simp

theorem encode_eq_wordOf (i : Instr) : encode i = wordOf i.opcode i.data := rfl

/-- The word of `i` holds its opcode and its DATA byte, and 0 in the reserved fields. -/
def EncodeFields.Statement (i : Instr) : Prop :=
  opField (encode i) = i.opcode ∧ rsv0Field (encode i) = 0 ∧ dataField (encode i) = i.data ∧ rsv1Field (encode i) = 0

theorem EncodeFields.of_wordOf (i : Instr) : EncodeFields.Statement i :=
  ⟨opField_wordOf _ _, rsv0Field_wordOf _ _, dataField_wordOf _ _, rsv1Field_wordOf _ _⟩

theorem EncodeFields.reset (d : Byte) : EncodeFields.Statement (.reset d) := of_wordOf _
theorem EncodeFields.writeBit (d : Byte) : EncodeFields.Statement (.writeBit d) := of_wordOf _
theorem EncodeFields.readBit (d : Byte) : EncodeFields.Statement (.readBit d) := of_wordOf _
theorem EncodeFields.writeByte (d : Byte) : EncodeFields.Statement (.writeByte d) := of_wordOf _
theorem EncodeFields.readByte (d : Byte) : EncodeFields.Statement (.readByte d) := of_wordOf _
theorem EncodeFields.matchAddress (d : Byte) : EncodeFields.Statement (.matchAddress d) := of_wordOf _
theorem EncodeFields.sendCommand (d : Byte) : EncodeFields.Statement (.sendCommand d) := of_wordOf _
theorem EncodeFields.searchFirst (d : Byte) : EncodeFields.Statement (.searchFirst d) := of_wordOf _
theorem EncodeFields.crcClear (d : Byte) : EncodeFields.Statement (.crcClear d) := of_wordOf _
theorem EncodeFields.crcFeed (d : Byte) : EncodeFields.Statement (.crcFeed d) := of_wordOf _
theorem EncodeFields.crcCheck (d : Byte) : EncodeFields.Statement (.crcCheck d) := of_wordOf _
theorem EncodeFields.checkAddr (d : Byte) : EncodeFields.Statement (.checkAddr d) := of_wordOf _
theorem EncodeFields.readScratchpad (d : Byte) : EncodeFields.Statement (.readScratchpad d) := of_wordOf _
theorem EncodeFields.readSensor (d : Byte) : EncodeFields.Statement (.readSensor d) := of_wordOf _

end Sys2Proof.Laws
end

