-- ==== Sys2Proof/Laws/Plans.lean ====
section
/-! SUPPORT. The list of every command is one the sequencer may stand in (`planOk`),
    built up from the lists of its parts. -/

namespace Sys2Proof.Machine

/-- A list that may follow a driven tick may follow a released one. -/
theorem planOk_mono (op p) : ∀ d, planOk op d p = true → planOk op false p = true := by
  induction p with
  | nil => intro d h; rfl
  | cons g r ih =>
    intro d h
    cases g <;> simp only [planOk, Bool.and_eq_true] at h ⊢
    · exact h
    · rename_i n; exact ih _ h
    · rename_i n; exact ih _ h
    · rename_i n; exact ih _ h
    · rename_i n; exact ih _ h
    · exact h
    · exact ih _ h
    · rename_i a
      refine ⟨⟨⟨h.1.1.1, by simp⟩, h.1.2⟩, ih _ h.2⟩

/-- Each part may be put before any list. -/
theorem planOk_resetSeq (op c r) (h : c.inRange = true) : planOk op false (resetSeq c ++ r) = planOk op false r := by
  have := inRange_facts h
  have h1 : (c.tPdwin == 0) = false := by simp; omega
  simp [resetSeq, planOk, actAllowed, actRaises, actFinal, h1]

theorem planOk_wslot (op c src r) (h : c.inRange = true) : planOk op false (wslot c src ++ r) = planOk op false r := by
  have := inRange_facts h
  have h1 : (c.tRec == 0) = false := by simp; omega
  simp [wslot, planOk, h1]

theorem planOk_rslot (op c r) (h : c.inRange = true) : planOk op false (rslot c ++ r) = planOk op false r := by
  have := inRange_facts h
  have h1 : (c.tRslot - c.tRl - c.tRs == 0) = false := by simp; omega
  simp [rslot, planOk, h1]

theorem planOk_act (op a r) : planOk op false (.act a :: r) = (actAllowed op a && (!actFinal a || r.isEmpty)
    && planOk op false r) := by
  simp [planOk, Bool.and_assoc]

theorem planOk_rounds (op b r) (n) (h : ∀ r, planOk op false (b ++ r) = planOk op false r)
    : planOk op false (rounds n b ++ r) = planOk op false r := by
  induction n with
  | zero => rfl
  | succ n ih => rw [rounds, List.append_assoc, h, ih]

theorem planOk_flatMap {α} (op) (f : α → List Seg) (l : List α) (r) (h : ∀ a r, planOk op false (f a ++ r) =
    planOk op false r) : planOk op false (l.flatMap f ++ r) = planOk op false r := by
  induction l with
  | nil => rfl
  | cons a l ih => rw [List.flatMap_cons, List.append_assoc, h, ih]

theorem planOk_wbyte (op c src r) (h : c.inRange = true) : planOk op false (wbyte c src ++ r) = planOk op false r := by
  have hw : ∀ r, planOk op false ((wslot c .shift0 ++ [.act .shiftOut]) ++ r) = planOk op false r := fun r => by
    rw [List.append_assoc, planOk_wslot _ _ _ _ h, List.singleton_append, planOk_act]
    simp [actAllowed, actFinal]
  rw [wbyte, List.cons_append, planOk_act, planOk_rounds _ _ _ _ hw]
  simp [actAllowed, actFinal]

theorem planOk_rbyte (op c r) (h : c.inRange = true) : planOk op false (rbyte c ++ r) = planOk op false r := by
  have hw : ∀ r, planOk op false ((rslot c ++ [.act .shiftIn]) ++ r) = planOk op false r := fun r => by
    rw [List.append_assoc, planOk_rslot _ _ _ h, List.singleton_append, planOk_act]
    simp [actAllowed, actFinal]
  rw [rbyte, List.cons_append, planOk_act, planOk_rounds _ _ _ _ hw]
  simp [actAllowed, actFinal]

theorem planOk_matchSeq (op c r) (h : c.inRange = true) : planOk op false (matchSeq c ++ r) = planOk op false r := by
  rw [matchSeq_eq, planOk_flatMap _ _ _ _ fun a r => planOk_wbyte _ _ _ _ h]

theorem planOk_spRead (op c r) (h : c.inRange = true) (ho : op = 0xD ∨ op = 0xE) :
    planOk op false (spRead c ++ r) = planOk op false r := by
  have hw : ∀ (k : Fin 9) r, planOk op false ((rbyte c ++ [.act (.spStore k)]) ++ r) = planOk op false r := fun k r => by
    rw [List.append_assoc, planOk_rbyte _ _ _ h, List.singleton_append, planOk_act]
    rcases ho with rfl | rfl <;> simp [actAllowed, actFinal]
  simp only [spRead, List.append_assoc]
  rw [planOk_resetSeq _ _ _ h, planOk_matchSeq _ _ _ h, planOk_wbyte _ _ _ _ h, List.singleton_append, planOk_act,
    planOk_flatMap _ _ _ _ hw]
  rw [List.cons_append, List.singleton_append, planOk_act, planOk_act]
  rcases ho with rfl | rfl <;> simp [actAllowed, actFinal]

theorem planOk_searchBit (c r) (h : c.inRange = true) : planOk 0x8 false (searchBit c ++ r) = planOk 0x8 false r := by
  simp only [searchBit, List.append_assoc]
  rw [planOk_rslot _ _ _ h, List.singleton_append, planOk_act, planOk_rslot _ _ _ h, List.singleton_append, planOk_act,
    planOk_wslot _ _ _ _ h, List.singleton_append, planOk_act]
  simp [actAllowed, actFinal]

theorem planOk_of_append (op) (p : List Seg) (h : planOk op false (p ++ []) = true) : planOk op false p = true := by
  simpa using h

/-- The list of every command (10_state.md R45). -/
theorem planOk_prog (c : Config) (i : Instr) (h : c.inRange = true) : planOk i.opcode false (progOf c i) = true := by
  apply planOk_of_append
  cases i <;> simp only [progOf, Instr.opcode]
  · rw [progReset, planOk_resetSeq _ _ _ h]; rfl
  · rw [progWriteBit, planOk_wslot _ _ _ _ h]; rfl
  · rw [progReadBit, List.append_assoc, planOk_rslot _ _ _ h]; rfl
  · rw [progWriteByte, planOk_wbyte _ _ _ _ h]; rfl
  · rw [progReadByte, List.append_assoc, planOk_rbyte _ _ _ h]; rfl
  · rw [progMatchAddress, planOk_matchSeq _ _ _ h]; rfl
  · simp only [progSendCommand, List.append_assoc]
    rw [planOk_resetSeq _ _ _ h, planOk_matchSeq _ _ _ h, planOk_wbyte _ _ _ _ h]; rfl
  · simp only [progSearchFirst, List.append_assoc]
    rw [planOk_resetSeq _ _ _ h, planOk_wbyte _ _ _ _ h, List.cons_append, List.singleton_append, planOk_act, planOk_act,
      planOk_rounds _ _ _ _ fun r => planOk_searchBit c r h]; rfl
  · rfl
  · rfl
  · rfl
  · rfl
  · rw [progReadScratchpad, planOk_spRead _ _ _ h (.inl rfl)]; rfl
  · rw [progReadSensor, List.append_assoc, planOk_spRead _ _ _ h (.inr rfl)]; rfl

end Sys2Proof.Machine
end

