-- ==== Sys2Proof/Laws/Scratchpad.lean ====
section
/-! SUPPORT. The run of the scratchpad read (44_scratchpad.md R127). -/

namespace Sys2Proof.Machine

/-- `SP_READ` in the order RESET, ten bytes, nine bytes received, checks. -/
theorem spRead_eq (c) : spRead c =
    resetSeq c ++ ((matchSrcs c ++ [ByteSrc.const c.cmdReadScratchpad]).flatMap (wbyte c)) ++ [Seg.act .crcClear]
   ++ (((List.finRange 9).flatMap fun k => rbyte c ++ [Seg.act (.spStore k)]) ++ [Seg.act .crcCheck,
       Seg.act .spValid]) := by
  simp [spRead, matchSeq_eq]

theorem flatMap_finRange (n : Nat) (f : Fin n → List Seg) : (List.finRange n).flatMap f =
    (List.range n).flatMap fun k => if h : k < n then f ⟨k,h⟩ else [] := by
  rw [← List.map_coe_finRange_eq_range, List.flatMap_map]
  simp

/-- The nine bytes received (44_scratchpad.md R127). -/
theorem runs_spBytes {op} {s : State} {line : Nat → Bool} (hr : s.cfg.inRange = true) (hb : s.busy = true)
    (v : Vector Byte 9)
   (hv : ∀ (k : Fin 9) (i : Fin 8), v[k].getLsbD i = line ((8 * k.val + i.val) * s.cfg.tRslot + sampleTick s.cfg))
       (hcrc : s.crc = 0) :
   ∃ sh bc rb, Runs op ((List.finRange 9).flatMap fun k => rbyte s.cfg ++ [Seg.act (.spStore k)])
       line (9 * (8 * s.cfg.tRslot)) s
     {s with sp := v, crc := crc8 v.toList, shift := sh, bitCnt := bc, rdBit := rb} (readWave s.cfg) := by
  -- σ
  let take (n : Nat) : Vector Byte 9 := Vector.ofFn fun k => if k.val < n then v[k] else s.sp[k]
  let crcs (n : Nat) : Byte := crc8 (v.toList.take n)
  have hf := inRange_facts hr
  have hpos : 0 < s.cfg.tRslot := by omega
  let smp (n i : Nat) : Bool := line (n * (8 * s.cfg.tRslot) + (i * s.cfg.tRslot + sampleTick s.cfg))
  let σ (n : Nat) : State := match n with
    | 0 => s
    | n+1 => {s with sp := take (n+1), crc := crcs (n+1), shift := shiftedIn (smp n) 8, bitCnt := Fin.ofNat 9 8, rdBit := smp n 7}
  have hσsp : ∀ n, (σ n).sp = take n := by
    intro n; cases n with
    | zero => refine (Vector.ext ?_); intro i hi; simp [σ, take]
    | succ n => rfl
  have hσcrc : ∀ n, (σ n).crc = crcs n := by
    intro n; cases n with
    | zero => simp [σ, crcs, crc8, crc8From, hcrc]
    | succ n => rfl
  have hσcfg : ∀ n, (σ n).cfg = s.cfg := by intro n; cases n <;> rfl
  have hσbusy : ∀ n, (σ n).busy = true := by intro n; cases n <;> exact hb
  have hstep : ∀ i, i < 9 → Runs op (if h : i < 9 then rbyte s.cfg ++ [Seg.act (.spStore ⟨i,h⟩)] else [])
      (fun k => line (i * (8 * s.cfg.tRslot) + k)) (8 * s.cfg.tRslot) (σ i) (σ (i+1)) (readWave s.cfg) := by
    intro i hi
    rw [dif_pos hi]
    have h1 := Runs.rbyte (op := op) (line := fun k => line (i * (8 * s.cfg.tRslot) + k)) (s := σ i)
        (by rw [hσcfg]; exact hr) (hσbusy i)
    rw [hσcfg] at h1
    have h2 := Runs.act (op := op) (a := .spStore ⟨i,hi⟩) (line := fun k => line (i * (8 * s.cfg.tRslot)
        + (8 * s.cfg.tRslot + k))) (s := receiving (smp i) (σ i) 8) (w := fun _ => false) rfl
    have h := h1.append h2
    have hbyte : shiftedIn (smp i) 8 = v[i] := by
      refine BitVec.eq_of_getLsbD_eq fun j hj => ?_
      rw [shiftedIn_bit _ j hj]
      have := hv ⟨i,hi⟩ ⟨j,hj⟩
      simp only [Fin.getElem_fin] at this
      rw [this]
      show line _ = line _
      congr 1
      ring
    have e : (runAct (.spStore ⟨i,hi⟩) (receiving (smp i) (σ i) 8)).1 = σ (i+1) := by
      have q : ∀ x : State, (runAct (.spStore ⟨i,hi⟩) x).1 =
          { x with sp := x.sp.set i x.shift hi, crc := crc8Byte x.crc x.shift } := fun _ => rfl
      rw [q]
      have e1 : ((receiving (smp i) (σ i) 8).sp.set i (receiving (smp i) (σ i) 8).shift hi) = take (i+1) := by
        show ((σ i).sp.set i (shiftedIn (smp i) 8) hi) = _
        rw [hσsp, hbyte]
        refine Vector.ext fun k hk => ?_
        rw [Vector.getElem_set]
        simp only [take, Vector.getElem_ofFn]
        by_cases hki : i = k
        · subst hki; simp
        · rw [if_neg hki]
          have : (k < i + 1) ↔ (k < i) := by omega
          simp [this]
      have e2 : crc8Byte (receiving (smp i) (σ i) 8).crc (receiving (smp i) (σ i) 8).shift = crcs (i+1) := by
        show crc8Byte (σ i).crc (shiftedIn (smp i) 8) = _
        rw [hσcrc, hbyte]
        simp only [crcs, crc8, crc8From]
        rw [List.take_add_one, List.foldl_append]
        simp [hi]
      rw [e1, e2]
      cases i <;> rfl
    have e' := e
    simp only [smp] at e'
    rw [show (runAct (Act.spStore ⟨i, hi⟩) (receiving (fun k => line (i * (8 * s.cfg.tRslot)
        + (k * s.cfg.tRslot + sampleTick s.cfg))) (σ i) 8)).1 = σ (i+1) from e] at h
    refine Runs.congr (w := _) h fun k hk => ?_
    rw [if_pos (by simpa using hk)]
  have hall := Runs.range (op := op) (line := line) (f :=
      fun i => if h : i < 9 then rbyte s.cfg ++ [Seg.act (.spStore ⟨i,h⟩)] else []) σ (fun _ => readWave s.cfg) 9 hstep
  rw [← flatMap_finRange 9 (fun k => rbyte s.cfg ++ [Seg.act (.spStore k)])] at hall
  have e9 : σ 9 = {s with sp := v, crc := crc8 v.toList, shift := shiftedIn (smp 8) 8, bitCnt := Fin.ofNat 9 8, rdBit := smp 8 7} := by
    have a1 : take 9 = v := by
      refine Vector.ext fun k hk => ?_
      simp only [take, Vector.getElem_ofFn]; rw [if_pos hk]; rfl
    have a2 : crcs 9 = crc8 v.toList := by
      show crc8 (v.toList.take 9) = _
      rw [List.take_of_length_le (by simp)]
    show State.mk .. = _
    rw [a1, a2]
  rw [e9] at hall
  refine ⟨shiftedIn (smp 8) 8, Fin.ofNat 9 8, smp 8 7, Runs.congr (w := _) hall ?_⟩
  intro k hk
  simp only [readWave]
  have : k % (8 * s.cfg.tRslot) % s.cfg.tRslot = k % s.cfg.tRslot := Nat.mod_mod_of_dvd k ⟨8, by rw [Nat.mul_comm]⟩
  rw [this]

/-- `SP_READ` up to its check (44_scratchpad.md R127). -/
theorem runs_spRead {op} {s : State} {line : Nat → Bool} {w} (hr : s.cfg.inRange = true) (hb : s.busy = true)
    (v : Vector Byte 9)
   (hh : highAfter line s.cfg.tWaitHighMax w) (hp : presence s.cfg line w) (hv : spReceived s.cfg line w v) :
   ∃ sh bc rb, Runs op (resetSeq s.cfg ++ ((matchSrcs s.cfg ++ [ByteSrc.const s.cfg.cmdReadScratchpad]).flatMap (wbyte s.cfg)) ++ [Seg.act .crcClear]
   ++ ((List.finRange 9).flatMap fun k => rbyte s.cfg ++ [Seg.act (.spStore k)]))
       line (spBase s.cfg w + 9 * (8 * s.cfg.tRslot)) s
     {s with presSeen := true, sp := v, crc := crc8 v.toList, shift := sh, bitCnt := bc, rdBit := rb} (spWave s w) := by
  obtain ⟨sh, bc, h1⟩ := runs_resetThen (op := op) (matchSrcs s.cfg ++ [ByteSrc.const s.cfg.cmdReadScratchpad])
      hr hb hh hp
  have e2 : (matchSrcs s.cfg ++ [ByteSrc.const s.cfg.cmdReadScratchpad]).map (readByteSrc s) =
      matchBytes s ++ [s.cfg.cmdReadScratchpad] := by
    rw [List.map_append, matchSrcs_bytes]; rfl
  have e3 : resetTicks s.cfg w + (matchSrcs s.cfg ++ [ByteSrc.const s.cfg.cmdReadScratchpad]).length * (8 * slotTicks s.cfg) = spBase s.cfg w := by
    have hl : (matchSrcs s.cfg ++ [ByteSrc.const s.cfg.cmdReadScratchpad]).length = 10 := rfl
    rw [hl]; simp only [spBase, matchTicks]; omega
  rw [e2, e3] at h1
  have h2 := Runs.act (op := op) (a := .crcClear) (line := fun k => line (spBase s.cfg w + k)) (s :=
      {s with presSeen := true, shift := sh, bitCnt := bc}) (w := fun _ => false) rfl
  have h12 := h1.append h2
  obtain ⟨sh', bc', rb, h3⟩ := runs_spBytes (op := op) (s :=
      (runAct .crcClear {s with presSeen := true, shift := sh, bitCnt := bc}).1) (line :=
      fun k => line (spBase s.cfg w + 0 + k)) hr hb v
     (fun k i => by simpa [Nat.add_assoc] using hv k i) rfl
  refine ⟨sh', bc', rb, ?_⟩
  have h := h12.append h3
  simp only [Nat.add_zero] at h
  refine Runs.congr (w := _) h fun k hk => ?_
  show (if k < spBase s.cfg w then (if k < spBase s.cfg w then _ else _) else readWave s.cfg (k - spBase s.cfg w)) = _
  simp only [spWave]
  split <;> rfl

end Sys2Proof.Machine
end

