-- ==== Sys2Proof/Laws/Search.lean ====
section
/-! SUPPORT. The run of the search's bits (42_search.md R113, R115). -/

namespace Sys2Proof.Machine

/-- `SEARCH_ACC[i] <- b` changes bit `i` only. -/
theorem getLsbD_setBit (a : BitVec 64) (i : Nat) (b : Bool) (j : Nat) (hj : j < 64) : (setBit a i b).getLsbD j =
    if j = i then b else a.getLsbD j := by
  unfold setBit
  have h1 : (1#64 <<< i).getLsbD j = decide (j = i) := by
    rw [BitVec.getLsbD_shiftLeft, BitVec.getLsbD_one]
    simp only [hj, decide_true, Bool.true_and]
    by_cases h : j = i
    · subst h; simp
    · have : j < i ∨ j - i ≠ 0 := by omega
      rcases this with h2 | h2 <;> simp [h, h2]
  cases b
  · rw [if_neg (by simp), BitVec.getLsbD_and, BitVec.getLsbD_not, h1]
    by_cases h : j = i <;> simp [h, hj]
  · rw [if_pos rfl, BitVec.getLsbD_or, h1]
    by_cases h : j = i <;> simp [h]

/-- SEARCH_ACC after the first `n` bits of `a`. -/
def accUpto (a : BitVec 64) : Nat → BitVec 64
  | 0 => 0
  | n + 1 => setBit (accUpto a n) n (a.getLsbD n)

theorem getLsbD_accUpto (a : BitVec 64) (n j : Nat) (hj : j < 64) : (accUpto a n).getLsbD j = (decide (j < n)
    && a.getLsbD j) := by
  induction n with
  | zero => simp [accUpto]
  | succ n ih =>
    rw [accUpto, getLsbD_setBit _ _ _ _ hj, ih]
    by_cases h : j = n
    · subst h; simp
    · have : (j < n + 1) ↔ (j < n) := by omega
      simp [h, this]

theorem accUpto_all (a : BitVec 64) : accUpto a 64 = a := by
  refine BitVec.eq_of_getLsbD_eq fun j hj => ?_
  rw [getLsbD_accUpto _ _ _ hj]; simp [hj]

theorem crcOfBits_succ (a n) : crcOfBits a (n+1) = crc8Step (crcOfBits a n) (a.getLsbD n) := by
  simp [crcOfBits, List.range_succ]

theorem crc8Byte_bits (a : BitVec 64) (k : Fin 8) : crc8Byte (crcOfBits a (8 * k.val)) (romByte a k) =
    crcOfBits a (8 * (k.val+1)) := by
  have e : 8 * (k.val + 1) = 8 * k.val + 1+1+1+1+1+1+1+1 := by omega
  rw [e]; simp only [crcOfBits_succ]
  have h8 : List.finRange 8 = [0,1,2,3,4,5,6,7] := by rfl
  simp only [crc8Byte, h8, List.foldl_cons, List.foldl_nil, romByte, BitVec.getLsbD_extractLsb']
  simp [Nat.add_assoc]

/-- The CRC fed bit by bit is the CRC of the address bytes (42_search.md R115). -/
theorem crc8_romBytes (a : BitVec 64) : crc8 (romBytes a) = crcOfBits a 64 := by
  have h8 : List.finRange 8 = [0,1,2,3,4,5,6,7] := by rfl
  simp only [crc8, crc8From, romBytes, h8, List.map_cons, List.map_nil, List.foldl_cons, List.foldl_nil]
  have h0 : (0 : Byte) = crcOfBits a (8 * (0 : Fin 8).val) := rfl
  rw [h0]
  rw [crc8Byte_bits a 0, show 8 * ((0 : Fin 8).val + 1) = 8 * (1 : Fin 8).val from rfl]
  rw [crc8Byte_bits a 1, show 8 * ((1 : Fin 8).val + 1) = 8 * (2 : Fin 8).val from rfl]
  rw [crc8Byte_bits a 2, show 8 * ((2 : Fin 8).val + 1) = 8 * (3 : Fin 8).val from rfl]
  rw [crc8Byte_bits a 3, show 8 * ((3 : Fin 8).val + 1) = 8 * (4 : Fin 8).val from rfl]
  rw [crc8Byte_bits a 4, show 8 * ((4 : Fin 8).val + 1) = 8 * (5 : Fin 8).val from rfl]
  rw [crc8Byte_bits a 5, show 8 * ((5 : Fin 8).val + 1) = 8 * (6 : Fin 8).val from rfl]
  rw [crc8Byte_bits a 6, show 8 * ((6 : Fin 8).val + 1) = 8 * (7 : Fin 8).val from rfl]
  rw [crc8Byte_bits a 7]
  rfl

/-- The two read slots of one search bit (42_search.md R113). -/
theorem runs_slotPair {op} {s : State} {line : Nat → Bool} (hr : s.cfg.inRange = true) (hb : s.busy = true) :
  Runs op (rslot s.cfg ++ [Seg.act .latchTrue] ++ rslot s.cfg) line (2 * s.cfg.tRslot) s
   {s with trueBit := line (sampleTick s.cfg), rdBit := line (s.cfg.tRslot + sampleTick s.cfg)} (readWave s.cfg) := by
  have hf := inRange_facts hr
  have h1 := Runs.rslot (op := op) (line := line) hr hb
  have h2 := Runs.act (op := op) (a := .latchTrue) (line := fun k => line (s.cfg.tRslot + k)) (s :=
      {s with rdBit := line (sampleTick s.cfg)}) (w := fun _ => false) rfl
  have h3 := Runs.rslot (op := op) (line := fun k => line (s.cfg.tRslot + 0 + k)) (s :=
      (runAct .latchTrue {s with rdBit := line (sampleTick s.cfg)}).1) hr hb
  have h := (h1.append h2).append h3
  have e : s.cfg.tRslot + 0 + (runAct Act.latchTrue {s with rdBit := line (sampleTick s.cfg)}).1.cfg.tRslot =
      2 * s.cfg.tRslot := by
    show s.cfg.tRslot + 0 + s.cfg.tRslot = _; omega
  rw [e] at h
  refine Runs.congr (w := _) h fun k hk => ?_
  simp only [Nat.add_zero, readWave]
  by_cases hlt : k < s.cfg.tRslot
  · simp [hlt, Nat.mod_eq_of_lt hlt]
  · rw [if_neg hlt]
    have : k % s.cfg.tRslot = k - s.cfg.tRslot := by
      rw [Nat.mod_eq_sub_mod (by omega), Nat.mod_eq_of_lt (by omega)]
    rw [this]; rfl

/-- One bit of the search (42_search.md R113). -/
theorem runs_searchBit {op} {s : State} {line : Nat → Bool} {b : Bool} (hr : s.cfg.inRange = true) (hb : s.busy = true)
  (hd : pairDecide s.cfg.searchPairMap (line (sampleTick s.cfg)) (line (s.cfg.tRslot + sampleTick s.cfg)) = some b) :
  Runs op (searchBit s.cfg) line (searchBitTicks s.cfg) s
   {s with trueBit := line (sampleTick s.cfg), rdBit := line (s.cfg.tRslot + sampleTick s.cfg), chosen := b, searchAcc := setBit s.searchAcc s.searchIdx.val b, crc := crc8Step s.crc b, searchIdx := s.searchIdx + 1}
   (fun k => if k < 2 * s.cfg.tRslot then readWave s.cfg k else decide (k - 2 * s.cfg.tRslot < slotLowTicks s.cfg b))
       := by
  have h1 := runs_slotPair (op := op) (line := line) hr hb
  let s1 : State := {s with trueBit := line (sampleTick s.cfg), rdBit := line (s.cfg.tRslot + sampleTick s.cfg)}
  have e1 : runAct .searchDecide s1 = ({s1 with chosen := b}, none) := by
    show (match pairDecide s.cfg.searchPairMap (line (sampleTick s.cfg)) (line (s.cfg.tRslot + sampleTick s.cfg))
        with | some b => _ | none => _) = _
    rw [hd]
  have h2 := Runs.act (op := op) (a := .searchDecide) (line := fun k => line (2 * s.cfg.tRslot + k)) (s := s1) (w :=
      fun _ => false) (by rw [e1])
  rw [e1] at h2
  have h3 := Runs.wslot (op := op) (src := .chosen) (line := fun k => line (2 * s.cfg.tRslot + 0 + k)) (s :=
      {s1 with chosen := b}) hr hb
  have h4 := Runs.act (op := op) (a := .searchStep) (line :=
      fun k => line (2 * s.cfg.tRslot + 0 + slotTicks s.cfg + k)) (s := {s1 with chosen := b}) (w := fun _ => false) rfl
  have h := ((h1.append h2).append h3).append h4
  have := Runs.congr (w := _) (w' :=
      (fun k => if k < 2 * s.cfg.tRslot then readWave s.cfg k else decide (k - 2 * s.cfg.tRslot < slotLowTicks s.cfg b))) h (fun k hk => by
    have hk2 : k < 2 * s.cfg.tRslot + 0 + slotTicks s.cfg := hk
    rw [if_pos (show k < 2 * s.cfg.tRslot + 0 + slotTicks s.cfg from hk2)]
    simp only [Nat.add_zero]
    by_cases hlt : k < 2 * s.cfg.tRslot
    · simp [hlt]
    · simp [hlt]; rfl)
  exact this

theorem runs_searchBit' {op} {s : State} {c : Config} (hc : s.cfg = c) {line : Nat → Bool} {b : Bool}
    (hr : c.inRange = true) (hb : s.busy = true)
  (hd : pairDecide c.searchPairMap (line (sampleTick c)) (line (c.tRslot + sampleTick c)) = some b) :
  Runs op (searchBit c) line (searchBitTicks c) s
   {s with trueBit := line (sampleTick c), rdBit := line (c.tRslot + sampleTick c), chosen := b, searchAcc := setBit s.searchAcc s.searchIdx.val b, crc := crc8Step s.crc b, searchIdx := s.searchIdx + 1}
   (fun k => if k < 2 * c.tRslot then readWave c k else decide (k - 2 * c.tRslot < slotLowTicks c b)) := by
  subst hc; exact runs_searchBit hr hb hd

theorem searchBitTicks_pos {c : Config} (h : c.inRange = true) : 0 < searchBitTicks c := by
  have := inRange_facts h
  simp only [searchBitTicks]; omega

/-- The state after `n` bits of the search; `f` gives the samples of each pair. -/
def searched (a : BitVec 64) (s : State) (f : Nat → Bool × Bool) : Nat → State
  | 0 => s
  | n + 1 => { s with searchAcc := accUpto a (n+1), searchIdx := Fin.ofNat 65 (n+1), crc := crcOfBits a (n+1), trueBit := (f n).1, rdBit := (f n).2, chosen := a.getLsbD n}

/-- The first `n` bits of the search (42_search.md R113). -/
theorem runs_searchBits {op} {s : State} {line : Nat → Bool} (a : BitVec 64) (hr : s.cfg.inRange = true)
    (hb : s.busy = true) (h0 : s.searchAcc = 0) (h1 : s.searchIdx = 0) (h2 : s.crc = 0) (n : Nat) (hn : n ≤ 64)
  (hd : ∀ i, i < n → pairDecide s.cfg.searchPairMap (line (i * searchBitTicks s.cfg + sampleTick s.cfg))
      (line (i * searchBitTicks s.cfg + s.cfg.tRslot + sampleTick s.cfg)) = some (a.getLsbD i)) :
  ∃ f, Runs op (rounds n (searchBit s.cfg)) line (n * searchBitTicks s.cfg) s (searched a s f n)
      (searchBitsWave s.cfg a) := by
  let f : Nat → Bool × Bool := fun i => (line (i * searchBitTicks s.cfg + sampleTick s.cfg),
      line (i * searchBitTicks s.cfg + s.cfg.tRslot + sampleTick s.cfg))
  refine ⟨f, ?_⟩
  have hcfg : ∀ i, (searched a s f i).cfg = s.cfg := by intro i; cases i <;> rfl
  have hbusy : ∀ i, (searched a s f i).busy = true := by intro i; cases i <;> exact hb
  have hacc : ∀ i, (searched a s f i).searchAcc = accUpto a i := by intro i; cases i; exact h0; rfl
  have hidx : ∀ i, (searched a s f i).searchIdx = Fin.ofNat 65 i := by intro i; cases i; exact h1; rfl
  have hcrc : ∀ i, (searched a s f i).crc = crcOfBits a i := by intro i; cases i; exact h2; rfl
  have hstep : ∀ i, i < n → Runs op (searchBit s.cfg) (fun k => line (i * searchBitTicks s.cfg + k))
      (searchBitTicks s.cfg) (searched a s f i) (searched a s f (i+1))
     (fun k => if k < 2 * s.cfg.tRslot then readWave s.cfg k else decide (k - 2 * s.cfg.tRslot < slotLowTicks s.cfg (a.getLsbD i))) := by
    intro i hi
    have h := runs_searchBit' (op := op) (s := searched a s f i) (hcfg i) (line :=
        fun k => line (i * searchBitTicks s.cfg + k)) (b := a.getLsbD i) hr (hbusy i)
      (by simpa [Nat.add_assoc] using hd i hi)
    have e : ({ searched a s f i with
            trueBit := line (i * searchBitTicks s.cfg + sampleTick s.cfg),
            rdBit := line (i * searchBitTicks s.cfg + (s.cfg.tRslot + sampleTick s.cfg)),
            chosen := a.getLsbD i,
            searchAcc := setBit (searched a s f i).searchAcc (searched a s f i).searchIdx.val (a.getLsbD i),
            crc := crc8Step (searched a s f i).crc (a.getLsbD i),
            searchIdx := (searched a s f i).searchIdx + 1} : State) = searched a s f (i+1) := by
      rw [hacc, hidx, hcrc]
      have x1 : (Fin.ofNat 65 i).val = i := Nat.mod_eq_of_lt (by omega)
      have x2 : Fin.ofNat 65 i + 1 = Fin.ofNat 65 (i+1) := by simp [Fin.ofNat, Fin.add_def]
      rw [x1, x2, ← crcOfBits_succ]
      have x3 : setBit (accUpto a i) i (a.getLsbD i) = accUpto a (i+1) := rfl
      rw [x3]
      simp only [searched, f, Nat.add_assoc]
      cases i <;> rfl
    rw [e] at h
    exact h
  have hall := Runs.range (op := op) (line := line) (f := fun _ => searchBit s.cfg) (searched a s f) _ n hstep
  rw [← rounds_eq] at hall
  exact Runs.congr (w := _) hall fun k _ => rfl

theorem rounds_add (m n : Nat) (b : List Seg) : rounds (m + n) b = rounds m b ++ rounds n b := by
  induction m with
  | zero => simp [rounds]
  | succ m ih => rw [Nat.succ_add, rounds, rounds, ih, List.append_assoc]

/-- SEARCH_FIRST before its first bit (42_search.md R113). -/
theorem runs_searchHead {op} {s : State} {line : Nat → Bool} {w} (hr : s.cfg.inRange = true) (hb : s.busy = true)
   (hh : highAfter line s.cfg.tWaitHighMax w) (hp : presence s.cfg line w) :
   ∃ sh bc, Runs op (resetSeq s.cfg ++ wbyte s.cfg (.const s.cfg.cmdSearchRom) ++ [Seg.act .searchInit,
       Seg.act .crcClear]) line (searchBase s.cfg w) s
     {s with presSeen := true, shift := sh, bitCnt := bc, searchAcc := 0, searchIdx := 0, crc := 0}
         (resetThenBytes s.cfg w [s.cfg.cmdSearchRom]) := by
  obtain ⟨sh, bc, h1⟩ := runs_resetThen (op := op) [ByteSrc.const s.cfg.cmdSearchRom] hr hb hh hp
  refine ⟨sh, bc, ?_⟩
  have h2 := Runs.act (op := op) (a := .searchInit) (line := fun k => line (searchBase s.cfg w + k)) (s :=
      {s with presSeen := true, shift := sh, bitCnt := bc}) (w := fun _ => false) rfl
  have h3 := Runs.act (op := op) (a := .crcClear) (line := fun k => line (searchBase s.cfg w + (0 + k))) (s :=
      (runAct .searchInit {s with presSeen := true, shift := sh, bitCnt := bc}).1) (w := fun _ => false) rfl
  have e3 : resetTicks s.cfg w + [ByteSrc.const s.cfg.cmdSearchRom].length * (8 * slotTicks s.cfg) =
      searchBase s.cfg w := by
    simp [searchBase]
  have e4 : ([ByteSrc.const s.cfg.cmdSearchRom].flatMap (wbyte s.cfg)) = wbyte s.cfg (.const s.cfg.cmdSearchRom) :=
      by simp
  rw [e3, e4] at h1
  have h := h1.append (h2.append h3)
  refine Runs.congr (w := _) h fun k hk => ?_
  have : k < searchBase s.cfg w := by simpa using hk
  rw [if_pos this]; rfl

theorem romFromAcc_eq (x : State) (a) (h1 : x.crc = 0) (h2 : x.searchAcc = a) : (runAct .romFromAcc x).1 =
    {x with romAddr := a, crc := 0} := by
  cases x; simp_all [runAct]

end Sys2Proof.Machine
end

