-- ==== Sys2Proof/Tests/Slice0.lean ====
section
/-! SUPPORT. Tests on fixed values. Expected values come from the spec: the encoding of 30_encoding.md R70, R72, the
vectors of 95_test_vectors.md and the examples of the command rules; each test names its source. Then one witness for the
hypotheses of each statement. -/

namespace Sys2Proof.Tests

open Sys2Proof Sys2Proof.Machine

/-! ### Checks of WellFormed (00_scope.md R5, R8; 30_encoding.md R77) -/

theorem test_defaults_in_range : defaultConfig.inRange = true := by decide

theorem test_config_refused :
    ({ defaultConfig with clkPerUs := 0 }).inRange = false ∧ ({ defaultConfig with tWaitHighMax := 249 }).inRange = false ∧
    ({ defaultConfig with tRstl := 479 }).inRange = false ∧ ({ defaultConfig with tPdwin := 503 }).inRange = false ∧
    ({ defaultConfig with tW1l := 0 }).inRange = false ∧ ({ defaultConfig with tW1l := 16 }).inRange = false ∧
    ({ defaultConfig with tW0l := 59 }).inRange = false ∧ ({ defaultConfig with tW0l := 81 }).inRange = false := by
  decide

theorem test_config_refused_slots :
    ({ defaultConfig with tWslot := 79, tW0l := 79 }).inRange = false ∧ ({ defaultConfig with tRec := 0 }).inRange = false ∧
    ({ defaultConfig with tRl := 0 }).inRange = false ∧ ({ defaultConfig with tRs := 10 }).inRange = false ∧
    ({ defaultConfig with tRslot := 15 }).inRange = false := by decide

theorem test_config_bounds_admitted :
    ({ defaultConfig with tRstl := 480, tW1l := 15, tW0l := 60, tRec := 1, tRl := 1, tRs := 14, tRslot := 16 }).inRange =
      true := by decide

theorem test_line_refused :
    (AsmLine.writeBit 2).wellFormed = false ∧ (AsmLine.writeByte 256).wellFormed = false ∧
    (AsmLine.sendCommand 256).wellFormed = false ∧ (AsmLine.crcFeed 256).wellFormed = false ∧
    (AsmLine.wr 0x40 0).wellFormed = false ∧ (AsmLine.wr 0x14 (2 ^ 32)).wellFormed = false ∧
    (AsmLine.rd 0x40).wellFormed = false := by decide

theorem test_pseudo_refused :
    (Pseudo.checkCrc8 [0, 256]).wellFormed = false ∧ (Pseudo.setAddr (2 ^ 64)).wellFormed = false ∧
    (Pseudo.writeBytes [256]).wellFormed = false := by decide

theorem test_not_canonical :
    (Instr.reset 1).canonical = false ∧ (Instr.writeBit 2).canonical = false ∧ (Instr.readBit 1).canonical = false ∧
    (Instr.readByte 1).canonical = false ∧ (Instr.matchAddress 1).canonical = false ∧
    (Instr.searchFirst 1).canonical = false ∧ (Instr.crcClear 1).canonical = false ∧
    (Instr.crcCheck 1).canonical = false ∧ (Instr.checkAddr 1).canonical = false ∧
    (Instr.readScratchpad 1).canonical = false ∧ (Instr.readSensor 1).canonical = false := by decide

/-! ### Decoding: RSV1, DATA, RSV0, OP written out bit by bit (30_encoding.md R70, R72) -/

theorem test_decode_bus :
    decode 0b0000000000000000_00000000_0000_0001#32 = .ok (.reset 0) ∧
    decode 0b0000000000000000_00000001_0000_0010#32 = .ok (.writeBit 1) ∧
    decode 0b0000000000000000_00000000_0000_0011#32 = .ok (.readBit 0) := by decide

theorem test_decode_bytes :
    decode 0b0000000000000000_10110000_0000_0100#32 = .ok (.writeByte 0xB0) ∧
    decode 0b0000000000000000_00000000_0000_0101#32 = .ok (.readByte 0) ∧
    decode 0b0000000000000000_00000000_0000_0110#32 = .ok (.matchAddress 0) ∧
    decode 0b0000000000000000_01000100_0000_0111#32 = .ok (.sendCommand 0x44) := by decide

theorem test_decode_search_and_crc :
    decode 0b0000000000000000_00000000_0000_1000#32 = .ok (.searchFirst 0) ∧
    decode 0b0000000000000000_00000000_0000_1001#32 = .ok (.crcClear 0) ∧
    decode 0b0000000000000000_00101000_0000_1010#32 = .ok (.crcFeed 0x28) ∧
    decode 0b0000000000000000_00000000_0000_1011#32 = .ok (.crcCheck 0) ∧
    decode 0b0000000000000000_00000000_0000_1100#32 = .ok (.checkAddr 0) := by decide

theorem test_decode_scratchpad :
    decode 0b0000000000000000_00000000_0000_1101#32 = .ok (.readScratchpad 0) ∧
    decode 0b0000000000000000_00000000_0000_1110#32 = .ok (.readSensor 0) := by decide

/-- 30_encoding.md R73, R74: the reserved opcodes, and one word for each edge of the reserved fields. -/
theorem test_decode_refused :
    decode 0x00000000#32 = .error .reservedOpcode ∧ decode 0x0000FF0F#32 = .error .reservedOpcode ∧
    decode 0x00000011#32 = .error .reservedBits ∧ decode 0x00000081#32 = .error .reservedBits ∧
    decode 0x00010001#32 = .error .reservedBits ∧ decode 0x80000001#32 = .error .reservedBits := by decide

/-- 30_encoding.md R78. -/
theorem test_convertT_word :
    (Pseudo.expand defaultConfig .convertT).map (fun l => l.assemble.map encode) = [some 0x00004407#32] := by decide

/-- 30_encoding.md R78: the first commands of program P2 of 95_test_vectors.md, without the WAITs. -/
theorem test_checkCrc8_words :
    (Pseudo.expand defaultConfig (.checkCrc8 [0x50, 0x05])).filterMap (fun l => l.assemble.map encode) =
      [0x00000009#32, 0x0000500A#32, 0x0000050A#32, 0x0000000B#32] := by decide

/-! ### One step of each command on small states -/

/-- The state reached by an outcome; the state after reset when there is none. -/
def after (o : Host.Outcome State Fault Refusal) : State :=
  match o with
  | .next s => s
  | .fault _ => State.reset
  | .refused _ => State.reset

/-- The command `op` in the list `p`, with `k` ticks of its first segment spent. -/
def at_ (op : BitVec 4) (p : List Seg) (k : Nat) : State :=
  { State.reset with busy := true, seq := .running op p, waitCnt := k }

/-- The length of the current segment. -/
def currentTicks (s : State) : Nat :=
  match s.seq with
  | .running _ (g :: _) => segTicks s g
  | _ => 0

/-- 95_test_vectors.md ROM_A: `28 FF 4C 60 91 16 04 B4`. -/
def romA : BitVec 64 := 0xB4041691604CFF28

/-- 95_test_vectors.md SP_POR: `50 05 4B 46 7F FF 0C 10 1C`. -/
def spPor : Vector Byte 9 := #v[0x50, 0x05, 0x4B, 0x46, 0x7F, 0xFF, 0x0C, 0x10, 0x1C]

/-- V-R7 and V-R5: the last tick of the presence window. -/
theorem test_reset_last_tick :
    statusWord (tick (at_ 0x1 [.pres 504] 503) true) = 0x022 ∧ statusWord (tick (at_ 0x1 [.pres 504] 503) false) = 0x002 := by
  decide

/-- V-R3 and V-R6: the last tick of the wait. -/
theorem test_reset_wait_last_tick :
    statusWord (tick (at_ 0x1 [.waitHigh 250, .low 504] 249) false) = 0x012 ∧
    drive (tick (at_ 0x1 [.waitHigh 250, .low 504] 249) true) = true := by decide

/-- V-R11, V-R12: only bit 0 of DATA counts. -/
theorem test_writeBit_low_time :
    currentTicks (after (exec (.writeBit 0xFE) State.reset)) = 80 ∧
    currentTicks (after (exec (.writeBit 0xFF) State.reset)) = 5 := by decide

/-- V-R9: ticks 4 and 5 of a write-1 slot. -/
theorem test_writeBit_release :
    drive { at_ 0x2 (wslot defaultConfig .cmdData0) 4 with cmdData := 1 } = true ∧
    drive (tick { at_ 0x2 (wslot defaultConfig .cmdData0) 4 with cmdData := 1 } true) = false := by decide

/-- V-R15, V-R16: the sample is the level of tick 15, whatever comes later in the slot. -/
theorem test_readBit_sample :
    (tick (at_ 0x3 [.relS 55, .act .rxBit] 0) false).rdBit = false ∧
    (tick { at_ 0x3 [.relS 55, .act .rxBit] 54 with rdBit := true } false).rxData = 0x01 := by decide

/-- V-B1: the first bit of 0xB0 is 0, and the fifth is 1. -/
theorem test_writeByte_bits :
    currentTicks (after (exec (.writeByte 0xB0) State.reset)) = 80 ∧
    (after (exec (.writeByte 0xB0) State.reset)).shift = 0xB0 ∧ slotLowTicks defaultConfig ((0xB0#8).getLsbD 4) = 5 := by
  decide

/-- V-B5: the eighth slot of a read of 0xB0, seven bits in. -/
theorem test_readByte_last_bit :
    (tick { at_ 0x5 [.relS 55, .act .shiftIn, .act .rxByte] 54 with shift := 0x60, rdBit := true } true).rxData = 0xB0 := by
  decide

/-- V-B7: the bytes sent. -/
theorem test_matchAddress_bytes :
    matchBytes { State.reset with romAddr := romA } = [0x55, 0x28, 0xFF, 0x4C, 0x60, 0x91, 0x16, 0x04, 0xB4] ∧
    (after (exec (.matchAddress 0) State.reset)).shift = 0x55 := by decide

/-- V-B11: the line stuck low. -/
theorem test_sendCommand_timeout :
    statusWord (tick { at_ 0x7 (progSendCommand defaultConfig) 249 with cmdData := 0x44 } false) = 0x012 := by decide

/-- V-B8: the function byte is the last byte, loaded from CMD_DATA. -/
theorem test_sendCommand_byte :
    (tick { at_ 0x7 (.rel 2 :: wbyte defaultConfig .cmdData) 1 with cmdData := 0x44 } true).shift = 0x44 := by decide

/-- V-S1: the last tick of the search for ROM_A, 63 bits in with the running CRC 0x01. -/
theorem test_searchFirst_success :
    (tick { at_ 0x8 [.rel 2, .act .searchStep, .act .crcCheck, .act .romFromAcc] 1 with
            chosen := true, searchAcc := 0x34041691604CFF28, searchIdx := 63, crc := 0x01 } true).romAddr = romA := by decide

/-- V-S7: the pair (1,1) at bit 0. -/
theorem test_searchFirst_no_response :
    statusWord (tick { at_ 0x8 [.relS 55, .act .searchDecide, .rel 1] 54 with trueBit := true, rdBit := true } true) =
      0x032 := by decide

/-- V-C5. -/
theorem test_crcClear :
    (tick (after (exec (.crcClear 0) { State.reset with crc := 0xE1 })) true).crc = 0 := by decide

/-- V-C6, V-C7. -/
theorem test_crcFeed :
    (tick (after (exec (.crcFeed 0x28) State.reset)) true).crc = 0xE1 ∧
    (tick (after (exec (.crcFeed 0xE1) { State.reset with crc := 0xE1 })) true).crc = 0 := by decide

/-- V-C8, V-C9. -/
theorem test_crcCheck :
    statusWord (tick (after (exec (.crcCheck 0) { State.reset with crc := 0xE1 })) true) = 0x042 ∧
    statusWord (tick (after (exec (.crcCheck 0) State.reset)) true) = 0x002 := by decide

/-- V-C3. -/
theorem test_crc_romA : crc8 ((romBytes romA).take 7) = 0xB4 := by decide +kernel

/-- V-C10, V-C12. -/
theorem test_checkAddr :
    statusWord (tick (after (exec (.checkAddr 0) { State.reset with romAddr := romA })) true) = 0x002 ∧
    (tick (after (exec (.checkAddr 0) { State.reset with romAddr := 0xB5041691604CFF28 })) true).crc = 0x5E := by
  decide +kernel

/-- The last slot of the ninth byte of SP_POR: the first eight bytes in, CRC 0x1C (V-C4). -/
def lastSlot (op : BitVec 4) (tail : List Seg) : State :=
  { at_ op ([.relS 55, .act .shiftIn, .act (.spStore 8), .act .crcCheck, .act .spValid] ++ tail) 54 with
    sp := #v[0x50, 0x05, 0x4B, 0x46, 0x7F, 0xFF, 0x0C, 0x10, 0x00], crc := 0x1C, shift := 0x38, rdBit := false }

/-- V-P1. -/
theorem test_readScratchpad_success :
    statusWord (tick (lastSlot 0xD []) true) = 0x102 ∧ regValue (tick (lastSlot 0xD []) true) .sp03 = 0x464B0550 ∧
    regValue (tick (lastSlot 0xD []) true) .sp8 = 0x1C := by decide

/-- V-P2. -/
theorem test_readSensor_success :
    statusWord (tick (lastSlot 0xE [.act .sensorWrite]) true) = 0x302 ∧
    regValue (tick (lastSlot 0xE [.act .sensorWrite]) true) .sensorTemp = 0x00000550 ∧
    regValue (tick (lastSlot 0xE [.act .sensorWrite]) true) .sensorAlarm = 0x0000464B ∧
    regValue (tick (lastSlot 0xE [.act .sensorWrite]) true) .sensorRes = 3 := by decide

/-- V-P6: the last slot of SP_BADRES, with the CRC byte 0xBE. -/
theorem test_readSensor_bad_resolution :
    statusWord (tick { lastSlot 0xE [.act .sensorWrite] with
      sp := #v[0x50, 0x05, 0x4B, 0x46, 0x60, 0xFF, 0x0C, 0x10, 0x00], crc := 0xBE, shift := 0x7C, rdBit := true } true) =
      0x152 := by decide

/-- A word placed by `withFetchWord` is the next step's command (assumption 14). -/
theorem test_withFetchWord :
    step (State.reset.withFetchWord 32 0x0000B004) = exec (.writeByte 0xB0) State.reset := rfl

/-- V-X1. -/
theorem test_illegal_word : (after (hostWrite 0 0x0000000F State.reset)) =
    { State.reset with done := true, err := .illegalCommand } := by decide

/-- V-X2, V-X3: writes while busy. -/
theorem test_write_while_busy :
    after (hostWrite 0 5 (at_ 0x1 [.pres 504] 1)) = { at_ 0x1 [.pres 504] 1 with rej := true } ∧
    after (hostWrite 0x14 0x01010101 (at_ 0x1 [.pres 504] 1)) = { at_ 0x1 [.pres 504] 1 with rej := true } := by decide

/-- V-X8, V-X10. -/
theorem test_status_writes :
    statusWord (after (hostWrite 4 2 { State.reset with done := true, err := .deviceNotPresent })) = 0x020 ∧
    after (hostWrite 4 0xFFFFFFFD { State.reset with done := true }) = { State.reset with done := true } := by decide

/-- V-X9. -/
theorem test_irq_follows_ctrl :
    irq { State.reset with done := true } = false ∧
    irq (after (hostWrite 8 1 { State.reset with done := true })) = true := by decide

/-- V-X12, V-X15. -/
theorem test_register_access :
    after (hostWrite 0x0C 0xFFFFFFFF State.reset) = State.reset ∧
    (hostRead 0x14 { at_ 0x8 [.low 1] 0 with romAddr := romA }).hostRdata = 0x604CFF28 := by decide

/-! ### Witnesses: a state and operands that meet the hypotheses of each statement -/

theorem wit_DecodeAndEncodeAreInverse : decode 0x0000B004 = .ok (.writeByte 0xB0) := by decide

theorem wit_AssemblerEncodesOnlyOperandsInRange :
    (AsmLine.writeBit 2).wellFormed = false ∧ (AsmLine.crcFeed 255).assemble = some (.crcFeed 255) := by decide

theorem wit_SetAddrWritesTheAddress :
    Pseudo.wellFormed (.setAddr (2 ^ 64 - 1)) = true ∧ State.reset.busy = false ∧ State.reset.rstN = true := by decide

theorem wit_StepRunsTheDecodedCommand :
    ({ State.reset with events := [.hostWrite 3 0x0000B004] }).events = .hostWrite 3 0x0000B004 :: [] ∧
    (3#6).toNat < 4 ∧ State.reset.rstN = true ∧ decode 0x0000B004 = .ok (.writeByte 0xB0) := by decide

/-- A state for each clause: the next input of each kind, and none. -/
theorem wit_StepTakesTheOldestInput :
    ({ State.reset with events := [.clock true] }).events = .clock true :: [] ∧
    ({ State.reset with events := [.hostWrite 8 1] }).events = .hostWrite 8 1 :: [] ∧
    ({ State.reset with events := [.hostRead 4] }).events = .hostRead 4 :: [] ∧
    ({ State.reset with events := [.rstPin false] }).events = .rstPin false :: [] ∧ State.reset.events = [] := by decide

theorem wit_IllegalWordRaisesCodeSeven :
    State.reset.rstN = true ∧ (∃ e, decode 0x0001000F = .error e) ∧ State.reset.busy = false ∧
    (at_ 0x1 [.pres 504] 0).busy = true ∧ (at_ 0x1 [.pres 504] 0).rstN = true :=
  ⟨by decide, ⟨.reservedBits, by decide⟩, by decide, by decide, by decide⟩

theorem wit_CommandWhileBusyOnlySetsRej :
    (at_ 0x1 [.pres 504] 0).busy = true ∧ (at_ 0x1 [.pres 504] 0).rstN = true := by decide

theorem wit_AcceptanceOfEveryWord :
    State.reset.cfg.inRange = true ∧ State.reset.busy = false ∧ State.reset.rstN = true ∧
    decode 0x0000000E = .ok (.readSensor 0) ∧ decode 0 = .error .reservedOpcode := by decide

theorem wit_NarrowAccessIsRefused :
    ({ State.reset with events := [.hostNarrow 0x14 1] }).events = .hostNarrow 0x14 1 :: [] := by decide

/-- The hypotheses common to the command statements. -/
theorem wit_commands : State.reset.cfg.inRange = true ∧ State.reset.busy = false := by decide

/-- WAIT_HIGH at both ends of its range, with presence on the first and on the last tick of the window (V-R5, V-R6). -/
theorem wit_reset_succeeds :
    (highAfter (fun k => decide (k = 0)) 250 1 ∧ presence defaultConfig (fun k => decide (k = 0)) 1) ∧
    highAfter (fun k => decide (k = 249)) 250 250 ∧ presence defaultConfig (fun k => decide (k = 249)) 250 ∧
    presence defaultConfig (fun k => decide (k ≠ 1008)) 1 := by
  refine ⟨⟨⟨by omega, by omega, fun j hj => by omega, by decide⟩, 0, by decide, by decide⟩,
    ⟨by omega, by omega, fun j hj => ?_, by decide⟩, ⟨503, by decide, by decide⟩, 503, by decide, by decide⟩
  exact decide_eq_false (by omega)

/-- The two failures of RESET: stuck low, and nobody there (V-R2, V-R3). -/
theorem wit_reset_fails :
    (∀ j, j < 250 → (fun _ : Nat => false) j = false) ∧ highAfter (fun _ => true) 250 1 ∧
    ¬ presence defaultConfig (fun _ => true) 1 := by
  refine ⟨fun _ _ => rfl, ⟨by omega, by omega, fun j hj => by omega, rfl⟩, ?_⟩
  rintro ⟨j, -, h⟩
  simp at h

/-- High only on tick 0: presence, then every pair reads (0,0), so the chosen bits are those of 0. -/
theorem wit_search_succeeds (i : Nat) (hi : i < 64) :
    searchPair defaultConfig (fun k => decide (k = 0)) 1 i = some ((0 : BitVec 64).getLsbD i) ∧ crc8 (romBytes 0) = 0 := by
  have h : ∀ i : Fin 64, searchPair defaultConfig (fun k => decide (k = 0)) 1 i = some ((0 : BitVec 64).getLsbD i) := by
    decide
  exact ⟨h ⟨i, hi⟩, by decide +kernel⟩

/-- An address with a residue other than 0 (43_crc8.md R125, ROM_BAD). -/
theorem wit_search_residue : crc8 (romBytes 0xB5041691604CFF28) = 0x5E := by decide +kernel

/-- High also on the sample of the first true bit: the address 1, which is chosen whole and fails the CRC check. -/
theorem wit_search_fails_crc (i : Nat) (hi : i < 64) :
    highAfter (fun k => decide (k = 0 ∨ k = 1680)) 250 1 ∧ presence defaultConfig (fun k => decide (k = 0 ∨ k = 1680)) 1 ∧
    searchPair defaultConfig (fun k => decide (k = 0 ∨ k = 1680)) 1 i = some ((1 : BitVec 64).getLsbD i) ∧
    crc8 (romBytes 1) ≠ 0 := by
  have h : ∀ i : Fin 64, searchPair defaultConfig (fun k => decide (k = 0 ∨ k = 1680)) 1 i =
      some ((1 : BitVec 64).getLsbD i) := by decide
  exact ⟨⟨by omega, by omega, fun j hj => by omega, by decide⟩, ⟨0, by decide, by decide⟩, h ⟨i, hi⟩, by decide +kernel⟩

/-- No response at the first bit (V-S7) and at the last: low up to bit 62, high from bit 63 on. -/
theorem wit_search_no_response :
    searchPair defaultConfig (fun k => decide (k ≠ 505)) 1 0 = none ∧
    (∀ j : Fin 63, searchPair defaultConfig (fun k => decide (k = 0 ∨ 15651 ≤ k)) 1 j.val =
      some ((0 : BitVec 64).getLsbD j.val)) ∧
    searchPair defaultConfig (fun k => decide (k = 0 ∨ 15651 ≤ k)) 1 63 = none := by decide

theorem wit_crc_commands : State.reset.busy = false ∧ ({ State.reset with crc := 0xE1 }).busy = false := by decide

theorem wit_SingleBitErrorIsDetected : 8 < ([0, 0, 0, 0, 0, 0, 0, 0] ++ [crc8 [0, 0, 0, 0, 0, 0, 0, 0]]).length ∧ 7 < 8 := by
  decide

/-- The line of a device that answers with the bytes of `v` after presence on the first tick of the window. -/
def answer (v : Vector Byte 9) (k : Nat) : Bool :=
  decide (k = 0) || (decide (7569 ≤ k) && (v.toList.getD ((k - 7569) / 70 / 8) 0).getLsbD ((k - 7569) / 70 % 8))

theorem wit_scratchpad_reset (v : Vector Byte 9) : highAfter (answer v) 250 1 ∧ presence defaultConfig (answer v) 1 :=
  ⟨⟨by omega, by omega, fun j hj => by omega, rfl⟩, 0, by decide, rfl⟩

/-- The bytes SP_POR are received and pass both checks (V-P1, V-P2). -/
theorem wit_scratchpad_passes :
    spReceived defaultConfig (answer spPor) 1 spPor ∧ crc8 spPor.toList = 0 ∧
    resDecode defaultConfig.resTable spPor[4] = some 3 := by
  refine ⟨?_, by decide +kernel, by decide⟩
  unfold spReceived
  decide

/-- Nine zero bytes pass the CRC check and fail the resolution; nine 0xFF fail the CRC check (44_scratchpad.md R130). -/
theorem wit_scratchpad_fails :
    crc8 (Vector.replicate 9 (0 : Byte)).toList = 0 ∧
    resDecode defaultConfig.resTable (Vector.replicate 9 (0 : Byte))[4] = none ∧
    crc8 (Vector.replicate 9 (0xFF : Byte)).toList = 0x63 := by decide +kernel

/-- One pattern of the table and one byte outside it. -/
theorem wit_ResolutionDecodesFourPatterns :
    State.reset.cfg.resTable = defaultResTable ∧ (lastSlot 0xE []).sp[4] = 0x7F ∧ State.reset.sp[4] = 0x00 := by decide

/-- The first and the last offset of a word. -/
theorem wit_RegisterMapAndReadValues :
    0x0C#6 &&& 0x3C#6 = 0x0C#6 ∧ 0x0F#6 &&& 0x3C#6 = 0x0C#6 ∧ 0x3F#6 &&& 0x3C#6 = 0x3C#6 := by decide

theorem wit_HostReadsAreExactUnlessBusyResult :
    State.reset.rstN = true ∧ State.reset.busy = false ∧ (regOf 0x33).isResult = true ∧ (regOf 0x1B).isResult = false ∧
    (at_ 0x1 [.pres 504] 0).busy = true ∧ (at_ 0x1 [.pres 504] 0).rstN = true ∧ 0x34 ≤ (0x34#6).toNat ∧
    0x34 ≤ (0x3F#6).toNat ∧ (3#6).toNat < 4 := by decide

theorem wit_StatusWriteClearsOnlyDone :
    State.reset.rstN = true ∧ 4 ≤ (4#6).toNat ∧ (4#6).toNat < 8 ∧ 4 ≤ (7#6).toNat ∧ (7#6).toNat < 8 := by decide

theorem wit_CtrlHoldsInterruptEnable :
    State.reset.rstN = true ∧ 8 ≤ (8#6).toNat ∧ (8#6).toNat < 12 ∧ 8 ≤ (11#6).toNat ∧ (11#6).toNat < 12 := by decide

theorem wit_RomAddrWritesReplaceFourBytes :
    State.reset.rstN = true ∧ State.reset.busy = false ∧ (at_ 0x8 [.low 1] 0).rstN = true ∧
    (at_ 0x8 [.low 1] 0).busy = true := by decide

theorem wit_ReadOnlyAndReservedWritesAreIgnored :
    (12 ≤ (0x0C#6).toNat ∧ (0x0C#6).toNat < 0x14) ∧ (12 ≤ (0x13#6).toNat ∧ (0x13#6).toNat < 0x14) ∧
    0x1C ≤ (0x1C#6).toNat ∧ 0x1C ≤ (0x3F#6).toNat := by decide

/-- A tick that ends a command, one that does not, and a state that accepts a word. -/
theorem wit_InterruptFollowsDoneAndEnable :
    (at_ 0x9 [.rel 1, .act .crcClear] 0).busy = true ∧ (tick (at_ 0x9 [.rel 1, .act .crcClear] 0) true).busy = false ∧
    BlockInv (at_ 0x1 [.low 504, .pres 504] 503) ∧ (tick (at_ 0x1 [.low 504, .pres 504] 503) true).busy = true ∧
    State.reset.rstN = true ∧ State.reset.cfg.inRange = true ∧ State.reset.busy = false ∧
    decode 0x00000009 = .ok (.crcClear 0) ∧ decode 0x0000000F = .error .reservedOpcode :=
  ⟨by decide, by decide, ⟨by decide, by decide, by decide, by decide, by decide, by decide⟩, by decide, by decide, by decide,
    by decide, by decide, by decide⟩

theorem wit_HardwareResetFromEveryState :
    ({ at_ 0xE [.low 1] 0 with events := [.hardReset] }).events = .hardReset :: [] := by decide

theorem wit_HeldInReset : ({ at_ 0xE [.low 1] 0 with rstN := false }).rstN = false := by decide

theorem wit_PrescalerMakesOneTick :
    ({ State.reset with cfg := { defaultConfig with clkPerUs := 3 } }).rstN = true ∧
    ({ State.reset with cfg := { defaultConfig with clkPerUs := 3 } }).presc = 0 ∧
    [true, false].length + 1 = ({ State.reset with cfg := { defaultConfig with clkPerUs := 3 } }).cfg.clkPerUs ∧
    ([] : List Bool).length + 1 = State.reset.cfg.clkPerUs := by decide

/-- A state between commands that meets the invariant. -/
theorem wit_IdleReleasesTheLine :
    BlockInv { State.reset with done := true, err := .checksumFailed } ∧
    ({ State.reset with done := true, err := .checksumFailed }).busy = false :=
  ⟨⟨by decide, by decide, by decide, by decide, trivial⟩, by decide⟩

theorem wit_DrivenTickIgnoresTheLine : drive (at_ 0x1 [.low 504, .pres 504] 503) = true := by decide

/-- A state on the last driven tick that meets the invariant. -/
theorem wit_NoCommandEndsOnDrivenTick :
    BlockInv (at_ 0x1 [.low 504, .pres 504] 503) ∧ drive (at_ 0x1 [.low 504, .pres 504] 503) = true :=
  ⟨⟨by decide, by decide, by decide, by decide, by decide, by decide⟩, by decide⟩

/-- A step from that state, with a clock edge pending. -/
theorem wit_EveryStepKeepsTheInvariant :
    BlockInv { at_ 0x1 [.low 504, .pres 504] 503 with events := [.clock true] } ∧
    step { at_ 0x1 [.low 504, .pres 504] 503 with events := [.clock true] } = .next (at_ 0x1 [.pres 504] 0) :=
  ⟨⟨by decide, by decide, by decide, by decide, by decide, by decide⟩, rfl⟩

/-- For each clause a tick that does change the register. -/
theorem wit_OnlyTheOwningCommandWrites :
    BlockInv (at_ 0xA [.rel 1, .act .crcFeed] 0) ∧
    (tick { at_ 0x3 [.relS 1, .act .rxBit] 0 with rdBit := false } true).rxData ≠ 0 ∧
    (tick { at_ 0xA [.rel 1, .act .crcFeed] 0 with cmdData := 0x28 } true).crc ≠ 0 ∧
    (tick { at_ 0x8 [.rel 1, .act .romFromAcc] 0 with searchAcc := 1 } true).romAddr ≠ 0 ∧
    (tick { at_ 0xD [.rel 1, .act (.spStore 0), .rel 1] 0 with shift := 1 } true).sp ≠ State.reset.sp ∧
    (tick (lastSlot 0xE [.act .sensorWrite]) true).sensorValid ≠ false :=
  ⟨⟨by decide, by decide, by decide, by decide, by decide, by decide⟩, by decide, by decide, by decide, by decide, by decide⟩

theorem wit_EveryCommandEnds :
    BlockInv (at_ 0xA [.rel 1, .act .crcFeed] 0) ∧ ticksLeft (at_ 0xA [.rel 1, .act .crcFeed] 0) = 1 :=
  ⟨⟨by decide, by decide, by decide, by decide, by decide, by decide⟩, by decide⟩

theorem wit_WaitingHostIsNeverRejected :
    ({ State.reset with events := [.hostWrite 0 9] }).events = .hostWrite 0 9 :: [] ∧
    respectsWait { State.reset with events := [.hostWrite 0 9] } (.hostWrite 0 9) = true ∧ State.reset.rej = false ∧
    step { State.reset with events := [.hostWrite 0 9] } = exec (.crcClear 0) State.reset :=
  ⟨by decide, by decide, by decide, rfl⟩

theorem wit_RaceOfCommandWriteAndCompletingTick :
    (at_ 0x9 [.rel 1, .act .crcClear] 0).busy = true ∧ (tick (at_ 0x9 [.rel 1, .act .crcClear] 0) true).busy = false := by
  decide

end Sys2Proof.Tests
end

/-! PROOFS. The scope of the model (00_scope.md): which input a step takes, the tick the prescaler makes, and the line on
a driven tick. -/
namespace Sys2Proof.Machine

/-! ### The input a step takes -/

/-- The oldest listed input is taken off the list and handled (00_scope.md R6). -/
theorem step_of_events_cons {s : State} {e : Event} {rest : List Event} (h : s.events = e :: rest) :
    step s = handle e { s with events := rest } := by
  simp only [step, h]

/-- With no input listed a step is a clock edge with a free line level. -/
theorem step_of_events_nil {s : State} (h : s.events = []) : step s = .next (freeClock s) := by
  simp only [step, h]

/-- Settles O7: each kind of oldest input by its arm of `handle`, and the free clock edge at the level `freeClock` draws. -/
theorem stepTakesTheOldestInput : Obligations.StepTakesTheOldestInput := by
  intro s
  refine ⟨?clock, ?write, ?read, ?pin, ?free⟩
  case clock => exact fun _ _ h => step_of_events_cons h
  case write => exact fun _ _ _ h => step_of_events_cons h
  case read => exact fun _ _ h => step_of_events_cons h
  case pin => exact fun _ _ h => step_of_events_cons h
  case free => exact fun h => ⟨Config.freeLine s.draws, step_of_events_nil h⟩

/-! ### The prescaler -/

/-- Out of reset, an edge before the CLK_PER_US-th only counts (10_state.md R43). -/
theorem clockEdge_counts {s : State} (line : Bool) (hr : s.rstN = true) (h : s.presc + 1 < s.cfg.clkPerUs) :
    clockEdge line s = { s with presc := s.presc + 1 } := by
  rw [clockEdge, if_pos hr, if_neg (by omega)]

/-- Out of reset, the CLK_PER_US-th edge is a tick and PRESC starts again (00_scope.md R5). -/
theorem clockEdge_ticks {s : State} (line : Bool) (hr : s.rstN = true) (h : s.cfg.clkPerUs ≤ s.presc + 1) :
    clockEdge line s = tick { s with presc := 0 } line := by
  rw [clockEdge, if_pos hr, if_pos h]

/-- Edges that do not reach the CLK_PER_US-th add their number to PRESC, whatever the line, and do nothing else. -/
theorem foldl_clockEdge_counts (lines : List Bool) (s : State) (hr : s.rstN = true)
    (h : s.presc + lines.length < s.cfg.clkPerUs) :
    lines.foldl (fun s line => clockEdge line s) s = { s with presc := s.presc + lines.length } := by
  induction lines generalizing s with
  | nil => rfl
  | cons line lines ih =>
    rw [List.length_cons] at h
    rw [List.foldl_cons, clockEdge_counts line hr (by omega), ih { s with presc := s.presc + 1 } hr (by simp only; omega),
      List.length_cons, Nat.add_right_comm, Nat.add_assoc]

/-- Settles O43: all edges but the last count from 0 to CLK_PER_US - 1 (`foldl_clockEdge_counts`); the last is the tick. -/
theorem prescalerMakesOneTick : Obligations.PrescalerMakesOneTick := by
  intro s lines last hr hp hlen
  have hcount : lines.foldl (fun s line => clockEdge line s) s = { s with presc := s.presc + lines.length } :=
    foldl_clockEdge_counts lines s hr (by omega)
  calc (lines ++ [last]).foldl (fun s line => clockEdge line s) s
      = clockEdge last { s with presc := s.presc + lines.length } := by rw [List.foldl_concat, hcount]
    _ = tick { s with presc := 0 } last := clockEdge_ticks last hr (by simp only; omega)
    _ = tick s last := by rw [← hp]

/-! ### The line on a driven tick -/

/-- The driven segments are plain: they sample nothing and end by their length. -/
theorem Seg.plain_of_driven {g : Seg} (h : g.driven = true) : g.plain = true := by
  cases g with
  | low _ => rfl
  | slotLow _ => rfl
  | _ => cases h

/-- A plain segment takes ticks. -/
theorem Seg.timed_of_plain {g : Seg} (h : g.plain = true) : g.timed = true := by
  cases g with
  | act _ => cases h
  | _ => rfl

/-- A tick of a plain segment does not read the line. -/
theorem tickSeg_plain_line {g : Seg} (h : g.plain = true) (op : BitVec 4) (rest : List Seg) (s : State) (b1 b2 : Bool) :
    tickSeg op g rest b1 s = tickSeg op g rest b2 s := by
  cases g with
  | low _ => rfl
  | rel _ => rfl
  | slotLow _ => rfl
  | slotRel _ => rfl
  | _ => cases h

/-- The line is driven only in a driven segment of a running command (10_state.md R19). -/
theorem seq_of_drive {s : State} (h : drive s = true) :
    ∃ op g rest, s.seq = .running op (g :: rest) ∧ g.driven = true := by
  unfold drive at h
  split at h
  case h_1 op n rest hs => exact ⟨op, .low n, rest, hs, rfl⟩
  case h_2 op src rest hs => exact ⟨op, .slotLow src, rest, hs, rfl⟩
  case h_3 => cases h

/-- Settles O45: a driving state is in a driven segment, which is plain, so its tick does not read the line. -/
theorem drivenTickIgnoresTheLine : Obligations.DrivenTickIgnoresTheLine := by
  intro s b1 b2 h
  obtain ⟨op, g, rest, hs, hg⟩ := seq_of_drive h
  have hplain := Seg.plain_of_driven hg
  have htimed := Seg.timed_of_plain hplain
  rw [tick_running op g rest s b1 htimed hs, tick_running op g rest s b2 htimed hs]
  exact tickSeg_plain_line hplain op rest s b1 b2

end Sys2Proof.Machine

/-! PROOFS. The registers of the block (10_state.md): what each host write does, the invariant of every step, and which
command writes which register. -/
namespace Sys2Proof.Machine

/-! ### Host writes, register by register -/

section HostWrite
variable {off : BitVec 6} (v : Word) {s : State}

/-- Out of reset a write to CMD offers its word (10_state.md R21). -/
theorem hostWrite_cmd (hr : s.rstN = true) (ho : regOf off = .cmd) : hostWrite off v s = writeCmd v s := by
  simp [hostWrite, hr, ho]

theorem hostWrite_status (hr : s.rstN = true) (ho : regOf off = .status) :
    hostWrite off v s = .next (writeStatus v s) := by
  simp [hostWrite, hr, ho]

theorem hostWrite_ctrl (hr : s.rstN = true) (ho : regOf off = .ctrl) :
    hostWrite off v s = .next (writeCtrl v s) := by
  simp [hostWrite, hr, ho]

theorem hostWrite_romAddrLo (hr : s.rstN = true) (ho : regOf off = .romAddrLo) :
    hostWrite off v s = .next (writeRomLo v s) := by
  simp [hostWrite, hr, ho]

theorem hostWrite_romAddrHi (hr : s.rstN = true) (ho : regOf off = .romAddrHi) :
    hostWrite off v s = .next (writeRomHi v s) := by
  simp [hostWrite, hr, ho]

end HostWrite

/-- A legal word written to CMD runs the meaning of the command it decodes to (10_state.md R21). -/
theorem writeCmd_of_decode {v : Word} {i : Instr} (h : decode v = .ok i) (s : State) : writeCmd v s = exec i s := by
  simp only [writeCmd, h]

/-- DONE is cleared by a 1 in bit 1, and nothing else changes (10_state.md R24). -/
theorem writeStatus_eq (v : Word) (s : State) : writeStatus v s = { s with done := s.done && !v.getLsbD 1 } := by
  unfold writeStatus
  split
  case isTrue h => rw [h, Bool.not_true, Bool.and_false]; rfl
  case isFalse h => rw [Bool.not_eq_true] at h; rw [h, Bool.not_false, Bool.and_true]

/-- Settles O6: the input taken is a write whose word is CMD, and its word is legal. -/
theorem stepRunsTheDecodedCommand : Obligations.StepRunsTheDecodedCommand := by
  intro s off w i rest hev hoff hr hdec
  have hreg : regOf off = .cmd := (regOf_spec off).1 hoff
  calc step s = hostWrite off w { s with events := rest } := step_of_events_cons hev
    _ = writeCmd w { s with events := rest } := hostWrite_cmd w hr hreg
    _ = exec i { s with events := rest } := writeCmd_of_decode hdec _

/-- Settles O36: the STATUS word takes the write, which is `writeStatus_eq`. -/
theorem statusWriteClearsOnlyDone : Obligations.StatusWriteClearsOnlyDone := by
  intro s off v hr hlo hhi
  have hreg : regOf off = .status := (regOf_spec off).2.1 ⟨hlo, hhi⟩
  rw [hostWrite_status v hr hreg, writeStatus_eq]

/-- Settles O37: the CTRL word takes the write, and `ctrlWord` extends IE by zeros. -/
theorem ctrlHoldsInterruptEnable : Obligations.CtrlHoldsInterruptEnable := by
  intro s off v hr hlo hhi
  have hreg : regOf off = .ctrl := (regOf_spec off).2.2.1 ⟨hlo, hhi⟩
  refine ⟨hostWrite_ctrl v hr hreg, ?ie, ?zero⟩
  case ie => simp [regValue, ctrlWord]
  case zero =>
    refine BitVec.eq_of_getLsbD_eq fun i hi => ?_
    simp [regValue, ctrlWord]

/-! ### ROM_ADDR -/

/-- With bytes 0 to 3 replaced by those of `v` (10_state.md R34). -/
theorem romByte_writeLo (a : BitVec 64) (v : Word) (k : Fin 8) :
    romByte (a.extractLsb' 32 32 ++ v : BitVec 64) k =
      if k.val < 4 then v.extractLsb' (8 * k.val) 8 else romByte a k := by
  refine BitVec.eq_of_getLsbD_eq fun i hi => ?_
  simp only [romByte, BitVec.getLsbD_extractLsb', BitVec.getLsbD_append]
  split
  case isTrue hlo =>
    have hk : k.val < 4 := by omega
    simp only [hk, if_true, BitVec.getLsbD_extractLsb']
  case isFalse hhi =>
    have hk : ¬ k.val < 4 := by omega
    have hlt : 8 * k.val + i - 32 < 32 := by omega
    have hadd : 32 + (8 * k.val + i - 32) = 8 * k.val + i := by omega
    simp [hk, hlt, hadd]

/-- With bytes 4 to 7 replaced by those of `v` (10_state.md R34). -/
theorem romByte_writeHi (a : BitVec 64) (v : Word) (k : Fin 8) :
    romByte (v ++ a.extractLsb' 0 32 : BitVec 64) k =
      if k.val < 4 then romByte a k else v.extractLsb' (8 * (k.val - 4)) 8 := by
  refine BitVec.eq_of_getLsbD_eq fun i hi => ?_
  simp only [romByte, BitVec.getLsbD_extractLsb', BitVec.getLsbD_append]
  split
  case isTrue hlo =>
    have hk : k.val < 4 := by omega
    simp [hk, hlo]
  case isFalse hhi =>
    have hk : ¬ k.val < 4 := by omega
    have hsub : 8 * k.val + i - 32 = 8 * (k.val - 4) + i := by omega
    simp only [hk, hsub, if_false, BitVec.getLsbD_extractLsb']

theorem writeRomLo_idle (v : Word) {s : State} (h : s.busy = false) :
    writeRomLo v s = { s with romAddr := (s.romAddr.extractLsb' 32 32 ++ v : BitVec 64) } := by
  rw [writeRomLo, if_neg (by simp [h])]

theorem writeRomHi_idle (v : Word) {s : State} (h : s.busy = false) :
    writeRomHi v s = { s with romAddr := (v ++ s.romAddr.extractLsb' 0 32 : BitVec 64) } := by
  rw [writeRomHi, if_neg (by simp [h])]

theorem writeRomLo_busy (v : Word) {s : State} (h : s.busy = true) : writeRomLo v s = reject s := if_pos h

theorem writeRomHi_busy (v : Word) {s : State} (h : s.busy = true) : writeRomHi v s = reject s := if_pos h

/-- Settles O38: what the two writes do in either case of BUSY, and the bytes by `romByte_writeLo` and
`romByte_writeHi`. -/
theorem romAddrWritesReplaceFourBytes : Obligations.RomAddrWritesReplaceFourBytes := by
  intro s v hr
  have hlo := hostWrite_romAddrLo (off := 0x14) v hr rfl
  have hhi := hostWrite_romAddrHi (off := 0x18) v hr rfl
  refine ⟨fun hb => ?idle, fun hb => ?busy⟩
  case idle =>
    rw [writeRomLo_idle v hb] at hlo
    rw [writeRomHi_idle v hb] at hhi
    exact ⟨_, _, hlo, rfl, hhi, rfl, fun k => ⟨romByte_writeLo _ v k, romByte_writeHi _ v k⟩⟩
  case busy =>
    rw [writeRomLo_busy v hb] at hlo
    rw [writeRomHi_busy v hb] at hhi
    exact ⟨hlo, hhi⟩

/-! ### Read values -/

/-- Settles O33: each field is read bit by bit from the concatenation that `statusWord` is. -/
theorem statusReadLayout : Obligations.StatusReadLayout := by
  intro s
  simp only [regValue]
  refine ⟨?busy, ?done, ?bits3to2, ?err, ?bit7, ?spValid, ?sensorValid, ?rej, ?above⟩
  case bits3to2 =>
    refine BitVec.eq_of_getLsbD_eq fun i hi => ?_
    simp only [statusWord, BitVec.getLsbD_extractLsb', BitVec.getLsbD_append]
    simp (disch := omega) only [if_neg, if_pos]
    simp
  case err =>
    refine BitVec.eq_of_getLsbD_eq fun i hi => ?_
    simp only [statusWord, BitVec.getLsbD_extractLsb', BitVec.getLsbD_append]
    simp (disch := omega) only [if_neg, if_pos]
    simp [hi]
  case above =>
    refine BitVec.eq_of_getLsbD_eq fun i hi => ?_
    simp only [statusWord, BitVec.getLsbD_extractLsb', BitVec.getLsbD_append]
    simp (disch := omega) only [if_neg]
    simp
  all_goals
    simp only [statusWord, BitVec.getLsbD_append]
    simp

/-- A byte register reads its value in bits 7:0 (10_state.md R31, R32). -/
theorem extractLsb'_low_setWidth (b : Byte) : (b.setWidth 32).extractLsb' 0 8 = b := by
  refine BitVec.eq_of_getLsbD_eq fun i hi => ?_
  have h32 : i < 32 := by omega
  simp [hi, h32]

/-- A byte register reads 0 in bits 31:8. -/
theorem extractLsb'_high_setWidth (b : Byte) : (b.setWidth 32).extractLsb' 8 24 = 0 := by
  refine BitVec.eq_of_getLsbD_eq fun i hi => ?_
  simp

/-- Settles O53: the register depends on the masked offset alone, of which there are the 16 listed. -/
theorem registerMapAndReadValues : Obligations.RegisterMapAndReadValues := by
  refine ⟨?map, fun s => ⟨?rxLow, ?rxHigh, ?crcLow, ?crcHigh⟩⟩
  case map =>
    intro p hp off h
    rw [regOf, h]
    clear h off
    revert p
    decide
  case rxLow => exact extractLsb'_low_setWidth s.rxData
  case rxHigh => exact extractLsb'_high_setWidth s.rxData
  case crcLow => exact extractLsb'_low_setWidth s.crc
  case crcHigh => exact extractLsb'_high_setWidth s.crc

/-! ### The invariant while a command runs -/

/-- What holds of a running command between its segments: BUSY is 1, DONE and ERR are 0, and the parameters are in
range. -/
structure InCommand (s : State) : Prop where
  params : s.cfg.inRange = true
  busy : s.busy = true
  done : s.done = false
  err : s.err = .none

theorem BlockInv.inCommand {s : State} (h : BlockInv s) (hb : s.busy = true) : InCommand s :=
  ⟨h.params, hb, (h.quiet hb).1, (h.quiet hb).2⟩

/-- The assignments write none of these fields. -/
theorem InCommand.runAct {s : State} (h : InCommand s) (a : Act) : InCommand (runAct a s).1 := by
  have k := runAct_keeps a s
  exact ⟨k.cfg ▸ h.params, k.busy.trans h.busy, k.done.trans h.done, k.err.trans h.err⟩

/-- Sampling the line writes none of these fields. -/
theorem InCommand.sampleLine {s : State} (h : InCommand s) (g : Seg) (line : Bool) :
    InCommand (sampleLine g line s) := by
  rw [← sampleLine_keeps g line s] at h
  exact ⟨h.params, h.busy, h.done, h.err⟩

/-- A command that completes leaves the invariant. -/
theorem InCommand.complete {s : State} (h : InCommand s) : BlockInv (complete s) where
  params := h.params
  busy_iff := by simp
  quiet := by simp
  noFamilyCode := by simp [h.err]
  position := trivial

/-- A command that ends by an error other than code 6 leaves the invariant. -/
theorem InCommand.raise {s : State} (h : InCommand s) {e : ErrCode} (he : e ≠ .familyCodeMismatch) :
    BlockInv (raise e s) where
  params := h.params
  busy_iff := by simp
  quiet := by simp
  noFamilyCode := he
  position := trivial

/-- A command that stands in a segment with a tick left meets the invariant. -/
theorem InCommand.pos {s : State} (h : InCommand s) {op : BitVec 4} {g : Seg} {rest : List Seg} {k : Nat}
    (hk : k < segTicks s g) (hp : planOk op false (g :: rest) = true) : BlockInv (pos op (g :: rest) k s) where
  params := h.params
  busy_iff := by simp [h.busy]
  quiet := fun _ => ⟨h.done, h.err⟩
  noFamilyCode := by simp [Machine.pos, h.err]
  position := ⟨by simpa using hk, hp⟩

/-- A list that has begun goes on as an allowed list. -/
theorem planOk_tail {op : BitVec 4} {g : Seg} {rest : List Seg} (h : planOk op false (g :: rest) = true) :
    planOk op false rest = true := by
  cases g with
  | low n => exact planOk_mono op rest true h
  | slotLow src => exact planOk_mono op rest true h
  | act a => simp only [planOk, Bool.and_eq_true] at h; exact h.2
  | _ => exact h

theorem Seg.exists_act_of_not_timed {g : Seg} (h : ¬ g.timed = true) : ∃ a, g = .act a := by
  cases g with
  | act a => exact ⟨a, rfl⟩
  | _ => exact absurd rfl h

/-- Entering an allowed list of a running command gives a state that meets the invariant. -/
theorem InCommand.enter {s : State} (h : InCommand s) {op : BitVec 4} {p : List Seg} (hp : planOk op false p = true) :
    BlockInv (enter op p s) := by
  induction p generalizing s with
  | nil =>
    have hc : InCommand { s with waitCnt := 0 } := ⟨h.params, h.busy, h.done, h.err⟩
    exact hc.complete
  | cons g rest ih =>
    by_cases ht : g.timed = true
    · by_cases hz : segTicks s g = 0
      · rw [enter_skip op g rest s ht hz]
        exact ih h (planOk_tail hp)
      · rw [enter_timed op g rest s hz]
        exact h.pos (Nat.pos_of_ne_zero hz) hp
    · obtain ⟨a, rfl⟩ := Seg.exists_act_of_not_timed ht
      have ha := h.runAct a
      cases hr : (Machine.runAct a s).2 with
      | none =>
        rw [enter_act op a rest s hr]
        exact ih ha (planOk_tail hp)
      | some e =>
        rw [enter_act_raise op a rest s e hr]
        have hc : InCommand { (Machine.runAct a s).1 with waitCnt := 0 } := ⟨ha.params, ha.busy, ha.done, ha.err⟩
        exact hc.raise (runAct_err a s e hr)

/-! ### A tick -/

/-- A tick of an idle sequencer changes nothing (60_exceptions.md R157). -/
theorem tick_of_idle {s : State} (h : s.seq = .idle) (line : Bool) : tick s line = s := by
  simp only [tick, h]

/-- Under the invariant a command runs in a segment that takes ticks, at one of its ticks. -/
theorem BlockInv.running {s : State} (h : BlockInv s) {op : BitVec 4} {p : List Seg} (hs : s.seq = .running op p) :
    ∃ g rest, p = g :: rest ∧ g.timed = true ∧ s.waitCnt < segTicks s g ∧ planOk op false (g :: rest) = true := by
  have hpos := h.position
  cases p with
  | nil => simp only [seqOk, hs] at hpos
  | cons g rest =>
    simp only [seqOk, hs] at hpos
    refine ⟨g, rest, rfl, ?_, hpos⟩
    by_contra ht
    obtain ⟨a, rfl⟩ := Seg.exists_act_of_not_timed ht
    exact absurd hpos.1 (Nat.not_lt_zero _)

theorem BlockInv.busy_of_running {s : State} (h : BlockInv s) {op : BitVec 4} {p : List Seg}
    (hs : s.seq = .running op p) : s.busy = true := h.busy_iff.2 (by simp [hs])

/-- The end of a segment raises code 1 or 2 only (40_bus_primitives.md R83, R84). -/
theorem segError_ne_familyCodeMismatch {g : Seg} {line : Bool} {s : State} {e : ErrCode}
    (h : segError g line s = some e) : e ≠ .familyCodeMismatch := by
  cases g with
  | waitHigh m =>
    simp only [segError, Option.ite_none_left_eq_some, Option.some.injEq] at h
    obtain ⟨-, rfl⟩ := h
    decide
  | pres n =>
    simp only [segError, Option.ite_none_left_eq_some, Option.some.injEq] at h
    obtain ⟨-, rfl⟩ := h
    decide
  | _ => cases h

/-- A segment that does not end with this tick has another one left. -/
theorem segTicks_of_not_segEnds {g : Seg} {line : Bool} {s : State} (h : ¬ segEnds g line s = true) :
    s.waitCnt + 1 < segTicks s g := by
  cases g with
  | waitHigh m =>
    simp only [segEnds, Bool.or_eq_true, decide_eq_true_eq, not_or] at h
    exact Nat.lt_of_not_le h.2
  | _ =>
    simp only [segEnds, decide_eq_true_eq] at h
    exact Nat.lt_of_not_le h

/-- What a tick of a segment can do: end it and go on, end the command with an error, or count. -/
theorem tickSeg_cases (op : BitVec 4) (g : Seg) (rest : List Seg) (line : Bool) (s : State) :
    tickSeg op g rest line s = enter op rest (sampleLine g line s) ∨
    (∃ e, e ≠ .familyCodeMismatch ∧ tickSeg op g rest line s = raise e (sampleLine g line s)) ∨
    ∃ k, k < segTicks (sampleLine g line s) g ∧
      tickSeg op g rest line s = { sampleLine g line s with waitCnt := k } := by
  by_cases hend : segEnds g line (sampleLine g line s) = true
  · cases herr : segError g line (sampleLine g line s) with
    | none => exact .inl (by simp only [tickSeg, hend, herr, if_true])
    | some e =>
      exact .inr (.inl ⟨e, segError_ne_familyCodeMismatch herr, by simp only [tickSeg, hend, herr, if_true]⟩)
  · exact .inr (.inr ⟨_, segTicks_of_not_segEnds hend, by simp only [tickSeg, if_neg hend]⟩)

theorem sampleLine_seq (g : Seg) (line : Bool) (s : State) : (sampleLine g line s).seq = s.seq := by
  have h : ({ sampleLine g line s with presSeen := s.presSeen, rdBit := s.rdBit } : State).seq = s.seq :=
    congrArg State.seq (sampleLine_keeps g line s)
  exact h

/-- Under the invariant a tick of a running command samples the line in the current segment `g`, and then enters the
rest of the list, ends the command with an error, or counts the tick. -/
theorem BlockInv.tick_cases {s : State} (h : BlockInv s) {op : BitVec 4} {p : List Seg} (hs : s.seq = .running op p)
    (line : Bool) : ∃ g rest, planOk op false (g :: rest) = true ∧
      (tick s line = enter op rest (sampleLine g line s) ∨
      (∃ e, e ≠ .familyCodeMismatch ∧ tick s line = raise e (sampleLine g line s)) ∨
      ∃ k, k < segTicks (sampleLine g line s) g ∧ tick s line = pos op (g :: rest) k (sampleLine g line s)) := by
  obtain ⟨g, rest, rfl, ht, -, hp⟩ := h.running hs
  have hseq : (sampleLine g line s).seq = .running op (g :: rest) := (sampleLine_seq g line s).trans hs
  have hpos (k : Nat) : { sampleLine g line s with waitCnt := k } = pos op (g :: rest) k (sampleLine g line s) := by
    rw [pos, ← hseq]
  refine ⟨g, rest, hp, ?_⟩
  rw [tick_running op g rest s line ht hs]
  simpa only [hpos] using tickSeg_cases op g rest line s

/-- A tick keeps the invariant. -/
theorem BlockInv.tick {s : State} (h : BlockInv s) (line : Bool) : BlockInv (tick s line) := by
  cases hs : s.seq with
  | idle => rw [tick_of_idle hs]; exact h
  | running op p =>
    obtain ⟨g, rest, hp, htick⟩ := h.tick_cases hs line
    have hc := (h.inCommand (h.busy_of_running hs)).sampleLine g line
    obtain heq | ⟨e, he, heq⟩ | ⟨k, hk, heq⟩ := htick <;> rw [heq]
    · exact hc.enter (planOk_tail hp)
    · exact hc.raise he
    · exact hc.pos hk hp

/-! ### Every step -/

/-- The part of the state the invariant speaks of; the other registers at their reset values. -/
def State.sequencer (s : State) : State :=
  { State.reset with busy := s.busy, done := s.done, err := s.err, cfg := s.cfg, seq := s.seq, waitCnt := s.waitCnt,
                     cmdData := s.cmdData, shift := s.shift, chosen := s.chosen }

/-- The invariant speaks of `State.sequencer` alone. -/
theorem blockInv_sequencer (s : State) : BlockInv s.sequencer ↔ BlockInv s :=
  ⟨fun h => ⟨h.params, h.busy_iff, h.quiet, h.noFamilyCode, h.position⟩,
    fun h => ⟨h.params, h.busy_iff, h.quiet, h.noFamilyCode, h.position⟩⟩

/-- A change of other registers keeps the invariant. -/
theorem BlockInv.of_sequencer_eq {s t : State} (h : BlockInv s) (ht : t.sequencer = s.sequencer) : BlockInv t := by
  rw [← blockInv_sequencer, ht]
  exact (blockInv_sequencer s).2 h

/-- The registers at their reset values meet the invariant. -/
theorem BlockInv.resetRegs {s : State} (h : BlockInv s) : BlockInv (resetRegs s) where
  params := h.params
  busy_iff := by simp [State.reset]
  quiet := by simp [State.reset]
  noFamilyCode := by simp [State.reset]
  position := trivial

theorem BlockInv.clockEdge {s : State} (h : BlockInv s) (line : Bool) : BlockInv (clockEdge line s) := by
  unfold Machine.clockEdge
  split
  · split
    · exact BlockInv.tick (s := { s with presc := 0 }) (h.of_sequencer_eq rfl) line
    · exact h.of_sequencer_eq rfl
  · exact h.resetRegs

/-- The acceptance or refusal of a legal word keeps the invariant. -/
theorem BlockInv.exec {s s' : State} (h : BlockInv s) {i : Instr} (hs : exec i s = .next s') : BlockInv s' := by
  rw [exec_eq, Host.Outcome.next.injEq] at hs
  subst hs
  split
  · exact h.of_sequencer_eq rfl
  · obtain ⟨hcfg, hdone, herr⟩ := acceptClears_keeps i (acceptFlags i.data s)
    have hc : InCommand { acceptClears i (acceptFlags i.data s) with busy := true } :=
      ⟨(congrArg Config.inRange hcfg).trans h.params, rfl, hdone, herr⟩
    exact hc.enter (planOk_prog s.cfg i h.params)

/-- The acceptance or refusal of an illegal word keeps the invariant: code 7 ends the command at once. -/
theorem BlockInv.offerIllegal {s : State} (h : BlockInv s) (d : Byte) : BlockInv (offerIllegal d s) := by
  unfold Machine.offerIllegal
  split
  · exact h.of_sequencer_eq rfl
  · exact ⟨h.params, by simp, by simp, by simp, trivial⟩

theorem BlockInv.writeCmd {s s' : State} (h : BlockInv s) {v : Word} (hs : writeCmd v s = .next s') : BlockInv s' := by
  unfold Machine.writeCmd at hs
  split at hs
  · exact h.exec hs
  · cases hs; exact h.offerIllegal _

/-- Clearing DONE keeps the invariant. -/
theorem BlockInv.clearDone {s : State} (h : BlockInv s) : BlockInv (clearDone s) :=
  ⟨h.params, h.busy_iff, fun hb => ⟨rfl, (h.quiet hb).2⟩, h.noFamilyCode, h.position⟩

theorem BlockInv.writeStatus {s : State} (h : BlockInv s) (v : Word) : BlockInv (writeStatus v s) := by
  unfold Machine.writeStatus
  split
  · exact h.clearDone
  · exact h

theorem BlockInv.writeRomLo {s : State} (h : BlockInv s) (v : Word) : BlockInv (writeRomLo v s) := by
  unfold Machine.writeRomLo
  split <;> exact h.of_sequencer_eq rfl

theorem BlockInv.writeRomHi {s : State} (h : BlockInv s) (v : Word) : BlockInv (writeRomHi v s) := by
  unfold Machine.writeRomHi
  split <;> exact h.of_sequencer_eq rfl

theorem BlockInv.hostRead {s : State} (h : BlockInv s) (off : BitVec 6) : BlockInv (hostRead off s) := by
  unfold Machine.hostRead
  split
  · exact h.of_sequencer_eq rfl
  · split <;> exact h.of_sequencer_eq rfl

theorem BlockInv.hostWrite {s s' : State} (h : BlockInv s) {off : BitVec 6} {v : Word}
    (hs : hostWrite off v s = .next s') : BlockInv s' := by
  cases hr : s.rstN with
  | false =>
    simp only [Machine.hostWrite, hr, Bool.not_false, if_true, Host.Outcome.next.injEq] at hs
    exact hs ▸ h
  | true =>
    simp only [Machine.hostWrite, hr, Bool.not_true, Bool.false_eq_true, if_false] at hs
    cases ho : regOf off <;> simp only [ho, Host.Outcome.next.injEq] at hs
    case cmd => exact h.writeCmd hs
    case status => exact hs ▸ h.writeStatus v
    case ctrl => exact hs ▸ h.of_sequencer_eq rfl
    case romAddrLo => exact hs ▸ h.writeRomLo v
    case romAddrHi => exact hs ▸ h.writeRomHi v
    all_goals exact hs ▸ h

theorem BlockInv.handle {s s' : State} (h : BlockInv s) {e : Event} (hs : handle e s = .next s') : BlockInv s' := by
  cases e with
  | clock line => cases hs; exact h.clockEdge line
  | hostWrite off v => exact h.hostWrite hs
  | hostRead off => cases hs; exact h.hostRead off
  | hostNarrow off bytes => cases hs
  | rstPin level => cases hs; exact h.of_sequencer_eq rfl
  | hardReset => cases hs; exact BlockInv.resetRegs (s := { s with rstN := true }) (h.of_sequencer_eq rfl)

/-- Settles O48: the oldest input is handled, or with none there is a clock edge; both keep the invariant. -/
theorem everyStepKeepsTheInvariant : Obligations.EveryStepKeepsTheInvariant := by
  intro s s' h hs
  cases hev : s.events with
  | nil =>
    rw [step_of_events_nil hev] at hs
    cases hs
    exact BlockInv.clockEdge (s := { s with draws := s.draws + 1 }) (h.of_sequencer_eq rfl) _
  | cons e rest =>
    rw [step_of_events_cons hev] at hs
    exact BlockInv.handle (s := { s with events := rest }) (h.of_sequencer_eq rfl) hs

/-- Settles O44: with BUSY = 0 the invariant says that SEQ is idle. -/
theorem idleReleasesTheLine : Obligations.IdleReleasesTheLine := by
  intro s line h hb
  have hidle : s.seq = .idle := by
    by_contra hne
    exact Bool.false_ne_true (hb.symm.trans (h.busy_iff.2 hne))
  exact ⟨by simp only [drive, hidle], tick_of_idle hidle line⟩

/-! ### Which command writes which register -/

/-- The outputs of READ_SENSOR (44_scratchpad.md R131). -/
def State.sensorOutputs (s : State) : BitVec 16 × Byte × Byte × BitVec 2 × Bool :=
  (s.tempRaw, s.alarmH, s.alarmL, s.res, s.sensorValid)

/-- The registers that commands write for the host; the others at their reset values. -/
def State.results (s : State) : State :=
  { State.reset with rxData := s.rxData, crc := s.crc, romAddr := s.romAddr, sp := s.sp, spValid := s.spValid,
                     tempRaw := s.tempRaw, alarmH := s.alarmH, alarmL := s.alarmL, res := s.res,
                     sensorValid := s.sensorValid }

/-- The registers that differ in `t` are ones the command `op` may write (10_state.md R42, 42_search.md R116,
44_scratchpad.md R132); the two that only success writes differ only where `completes` holds. -/
structure OwnWrites (op : BitVec 4) (completes : Prop) (s t : State) : Prop where
  rxData : t.rxData = s.rxData ∨ op = 0x3 ∨ op = 0x5
  crc : t.crc = s.crc ∨ op = 0x8 ∨ op = 0x9 ∨ op = 0xA ∨ op = 0xC ∨ op = 0xD ∨ op = 0xE
  romAddr : t.romAddr = s.romAddr ∨ op = 0x8 ∧ completes
  scratchpad : (t.sp, t.spValid) = (s.sp, s.spValid) ∨ op = 0xD ∨ op = 0xE
  sensor : t.sensorOutputs = s.sensorOutputs ∨ op = 0xE ∧ completes

theorem OwnWrites.of_results_eq {op : BitVec 4} {c : Prop} {s t : State} (h : t.results = s.results) :
    OwnWrites op c s t where
  rxData := .inl (congrArg State.rxData h :)
  crc := .inl (congrArg State.crc h :)
  romAddr := .inl (congrArg State.romAddr h :)
  scratchpad := .inl (congrArg (fun s => (s.sp, s.spValid)) h :)
  sensor := .inl (congrArg State.sensorOutputs h :)

theorem OwnWrites.mono {op : BitVec 4} {c c' : Prop} {s t : State} (h : OwnWrites op c s t) (hc : c → c') :
    OwnWrites op c' s t :=
  ⟨h.rxData, h.crc, h.romAddr.imp_right (And.imp_right hc), h.scratchpad, h.sensor.imp_right (And.imp_right hc)⟩

theorem eq_or_trans {α : Type} {x y z : α} {c : Prop} (h : y = x ∨ c) (h' : z = y ∨ c) : z = x ∨ c :=
  h.elim (fun e => e ▸ h') .inr

theorem OwnWrites.trans {op : BitVec 4} {c : Prop} {s t u : State} (h : OwnWrites op c s t) (h' : OwnWrites op c t u) :
    OwnWrites op c s u where
  rxData := eq_or_trans h.rxData h'.rxData
  crc := eq_or_trans h.crc h'.crc
  romAddr := eq_or_trans h.romAddr h'.romAddr
  scratchpad := eq_or_trans h.scratchpad h'.scratchpad
  sensor := eq_or_trans h.sensor h'.sensor

/-- The decision of the search writes the chosen bit alone (42_search.md R113). -/
theorem runAct_searchDecide (s : State) : ∃ b, (runAct .searchDecide s).1 = { s with chosen := b } := by
  simp only [runAct]
  split
  case h_1 b _ => exact ⟨b, rfl⟩
  case h_2 => exact ⟨s.chosen, rfl⟩

/-- The sensor outputs are written only when the resolution is valid (44_scratchpad.md R131). -/
theorem runAct_sensorWrite (s : State) :
    (runAct .sensorWrite s).1 = s ∨ ∃ r, runAct .sensorWrite s = (writeSensor r s, none) := by
  simp only [runAct]
  split
  case h_1 r _ => exact .inr ⟨r, rfl⟩
  case h_2 => exact .inl rfl

/-- An assignment of the command `op` writes what the command may write (10_state.md R42). -/
theorem runAct_ownWrites {op : BitVec 4} {a : Act} (h : actAllowed op a = true) (s : State) :
    OwnWrites op (actFinal a = true ∧ (runAct a s).2 = none) s (runAct a s).1 := by
  have hsame : OwnWrites op (actFinal a = true ∧ (runAct a s).2 = none) s s := .of_results_eq rfl
  cases a <;> simp only [actAllowed, Bool.or_eq_true, beq_iff_eq] at h
  case rxBit => exact { hsame with rxData := .inr (.inl h) }
  case rxByte => exact { hsame with rxData := .inr (.inr h) }
  case crcClear => exact { hsame with crc := .inr (by tauto) }
  case crcFeed => exact { hsame with crc := .inr (by tauto) }
  case crcAddr => exact { hsame with crc := .inr (by tauto) }
  case searchStep => exact { hsame with crc := .inr (by tauto) }
  case romFromAcc => exact { hsame with romAddr := .inr ⟨h, rfl, rfl⟩ }
  case spStore k => exact { hsame with crc := .inr (by tauto), scratchpad := .inr h }
  case spValid => exact { hsame with scratchpad := .inr h }
  case searchDecide =>
    obtain ⟨b, hb⟩ := runAct_searchDecide s
    rw [hb]; exact .of_results_eq rfl
  case sensorWrite =>
    obtain hs | ⟨r, hr⟩ := runAct_sensorWrite s
    · rw [hs]; exact .of_results_eq rfl
    · rw [hr] at hsame ⊢; exact { hsame with sensor := .inr ⟨h, rfl, rfl⟩ }
  all_goals exact .of_results_eq rfl

/-- The sampling of the line writes no register a host reads. -/
theorem sampleLine_ownWrites (op : BitVec 4) (c : Prop) (g : Seg) (line : Bool) (s : State) :
    OwnWrites op c s (sampleLine g line s) := by
  have h : OwnWrites op c { sampleLine g line s with presSeen := s.presSeen, rdBit := s.rdBit } (sampleLine g line s) :=
    .of_results_eq rfl
  rwa [sampleLine_keeps] at h

/-- The command has ended without error. -/
def State.succeeded (s : State) : Prop := s.busy = false ∧ s.err = .none

/-- After its completing write a command has only to complete (60_exceptions.md R149). -/
theorem enter_succeeded_of_actFinal {op : BitVec 4} {a : Act} {rest : List Seg} {s : State} (hs : InCommand s)
    (hp : planOk op false (.act a :: rest) = true) (ha : actFinal a = true) : (enter op rest s).succeeded := by
  have hrest : rest = [] := by
    simp only [planOk_act, ha, Bool.not_true, Bool.false_or, Bool.and_eq_true, List.isEmpty_iff] at hp
    exact hp.1.2
  subst hrest
  exact ⟨rfl, hs.err⟩

/-- Entering an allowed list of the command `op` writes what the command may write. -/
theorem enter_ownWrites {op : BitVec 4} {p : List Seg} (hp : planOk op false p = true) {s : State} (hs : InCommand s) :
    OwnWrites op (enter op p s).succeeded s (enter op p s) := by
  induction p generalizing s with
  | nil => exact OwnWrites.of_results_eq rfl
  | cons g rest ih =>
    by_cases ht : g.timed = true
    · by_cases hz : segTicks s g = 0
      · rw [enter_skip op g rest s ht hz]
        exact ih (planOk_tail hp) hs
      · rw [enter_timed op g rest s hz]
        exact OwnWrites.of_results_eq rfl
    · obtain ⟨a, rfl⟩ := Seg.exists_act_of_not_timed ht
      have hallowed : actAllowed op a = true := by
        rw [planOk_act, Bool.and_eq_true, Bool.and_eq_true] at hp
        exact hp.1.1
      have hw := runAct_ownWrites hallowed s
      have hc := hs.runAct a
      cases hr : (runAct a s).2 with
      | none =>
        rw [enter_act op a rest s hr]
        exact (hw.mono fun hfin => enter_succeeded_of_actFinal hc hp hfin.1).trans (ih (planOk_tail hp) hc)
      | some e =>
        rw [enter_act_raise op a rest s e hr]
        have hno : ¬ (actFinal a = true ∧ (runAct a s).2 = none) := by simp [hr]
        exact (hw.mono fun hfin => absurd hfin hno).trans (OwnWrites.of_results_eq rfl)

/-- A tick of the command `op` writes what the command may write. -/
theorem BlockInv.tick_ownWrites {s : State} (h : BlockInv s) {op : BitVec 4} {p : List Seg} (hs : s.seq = .running op p)
    (line : Bool) : OwnWrites op (Machine.tick s line).succeeded s (Machine.tick s line) := by
  obtain ⟨g, rest, hp, htick⟩ := h.tick_cases hs line
  have hc := (h.inCommand (h.busy_of_running hs)).sampleLine g line
  refine (sampleLine_ownWrites op _ g line s).trans ?_
  obtain heq | ⟨e, -, heq⟩ | ⟨k, -, heq⟩ := htick <;> rw [heq]
  · exact enter_ownWrites (planOk_tail hp) hc
  · exact OwnWrites.of_results_eq rfl
  · exact OwnWrites.of_results_eq rfl

theorem runningOp_of_running {s : State} {op : BitVec 4} {p : List Seg} (h : s.seq = .running op p) :
    runningOp s = some op := by
  simp only [runningOp, h]

/-- Settles O49: an idle tick changes nothing, a tick of a command only what it owns (`BlockInv.tick_ownWrites`), and
none what `tick_keeps` lists. -/
theorem onlyTheOwningCommandWrites : Obligations.OnlyTheOwningCommandWrites := by
  intro s line h
  obtain ⟨hrej, hdata, hie, -, hpresc, hrdata⟩ := tick_keeps s line
  cases hs : s.seq with
  | idle => simp [tick_of_idle hs]
  | running op p =>
    have hw := h.tick_ownWrites hs line
    simp only [runningOp_of_running hs, Option.some.injEq, exists_eq_left']
    refine ⟨hw.rxData.resolve_left, fun hne => ?crc, hw.romAddr.resolve_left,
      fun hne => hw.scratchpad.resolve_left ?scratchpad, fun hne => hw.sensor.resolve_left ?sensor,
      hie, hrej, hdata, hrdata, hpresc⟩
    case crc => simpa using hw.crc.resolve_left hne
    case scratchpad =>
      rw [Prod.mk.injEq, not_and_or]
      exact hne
    case sensor =>
      simp only [State.sensorOutputs, Prod.mk.injEq, not_and_or]
      exact hne

end Sys2Proof.Machine

/-! PROOFS. The register space (20_memory.md): accesses that are refused or ignored, what a host read leaves, and how the
words pack their bytes. -/
namespace Sys2Proof.Machine

/-- Settles O11: the oldest input is handled, and a narrow access is refused by its arm of `handle`. -/
theorem narrowAccessIsRefused : Obligations.NarrowAccessIsRefused :=
  fun _ _ _ _ hev => step_of_events_cons hev

/-! ### Host writes that are ignored -/

/-- While `rst_n` = 0 no write has an effect (70_reset_and_hazards.md R160). -/
theorem hostWrite_inReset (off : BitVec 6) (v : Word) {s : State} (hr : s.rstN = false) :
    hostWrite off v s = .next s := by
  simp [hostWrite, hr]

/-- No register but CMD, STATUS, CTRL and ROM_ADDR takes a write, whatever the level of `rst_n` (20_memory.md R63). -/
theorem hostWrite_ignored {off : BitVec 6} (v : Word) (s : State)
    (h : regOf off ≠ .cmd ∧ regOf off ≠ .status ∧ regOf off ≠ .ctrl ∧ regOf off ≠ .romAddrLo ∧
      regOf off ≠ .romAddrHi) :
    hostWrite off v s = .next s := by
  obtain ⟨hcmd, hstatus, hctrl, hlo, hhi⟩ := h
  cases hr : s.rstN with
  | false => exact hostWrite_inReset off v hr
  | true =>
    simp only [hostWrite, hr, Bool.not_true, Bool.false_eq_true, if_false]
    cases ho : regOf off with
    | cmd => exact absurd ho hcmd
    | status => exact absurd ho hstatus
    | ctrl => exact absurd ho hctrl
    | romAddrLo => exact absurd ho hlo
    | romAddrHi => exact absurd ho hhi
    | _ => rfl

/-- Settles O39: by the register map no offset of the ranges is that of a writable register. -/
theorem readOnlyAndReservedWritesAreIgnored : Obligations.ReadOnlyAndReservedWritesAreIgnored := by
  intro s off v hoff
  obtain ⟨-, -, -, -, hmap⟩ := regOf_spec off
  exact hostWrite_ignored v s (hmap hoff)

/-! ### Host reads -/

/-- Out of reset a read is exact, but for a result register while BUSY (20_memory.md R64, R66). -/
theorem hostRead_exact {off : BitVec 6} {s : State} (hr : s.rstN = true)
    (h : s.busy = false ∨ (regOf off).isResult = false) :
    hostRead off s = { s with hostRdata := regValue s (regOf off) } := by
  have hfree : ¬ (s.busy && (regOf off).isResult) = true := by
    rw [Bool.not_eq_true, Bool.and_eq_false_iff]
    exact h
  rw [hostRead, if_neg (by simp [hr]), if_neg hfree]

/-- Out of reset a read of a result register while BUSY draws a free value (20_memory.md R64). -/
theorem hostRead_free {off : BitVec 6} {s : State} (hr : s.rstN = true) (hb : s.busy = true)
    (hres : (regOf off).isResult = true) :
    hostRead off s = { s with hostRdata := Config.freeWord s.draws, draws := s.draws + 1 } := by
  rw [hostRead, if_neg (by simp [hr]), if_pos (by rw [hb, hres, Bool.and_self])]

/-- The value of a register does not depend on the pending inputs. -/
theorem regValue_events (s : State) (rest : List Event) (r : Reg) : regValue { s with events := rest } r = regValue s r := by
  cases r <;> rfl

/-- Settles O35: the step is the host read without its input on the list, which is exact or draws a free value; the map
gives CMD and the reserved words, whose value is 0. -/
theorem hostReadsAreExactUnlessBusyResult : Obligations.HostReadsAreExactUnlessBusyResult := by
  intro s off rest hev hr
  obtain ⟨hcmd, -, -, hreserved, -⟩ := regOf_spec off
  have hstep : step s = .next (hostRead off { s with events := rest }) := step_of_events_cons hev
  refine ⟨fun h => ?stored, fun ⟨hb, hres⟩ => ⟨Config.freeWord s.draws, ?free⟩, fun h => ?reserved, fun h => ?cmd⟩
  case stored => rw [hstep, hostRead_exact (s := { s with events := rest }) hr h, regValue_events]
  case free => rw [hstep, hostRead_free (s := { s with events := rest }) hr hb hres]
  case reserved => rw [hreserved h]; rfl
  case cmd => rw [hcmd h]; rfl

/-! ### The bytes of the words -/

/-- Byte `k` of a word stands in its bits `8k+7:8k` (20_memory.md R61). -/
theorem packWord_byte (b : Fin 4 → Byte) (k : Fin 4) :
    (packWord (b 3) (b 2) (b 1) (b 0)).extractLsb' (8 * k.val) 8 = b k := by
  unfold packWord
  match k with
  | 0 => exact BitVec.extractLsb'_append_eq_right
  | 1 =>
    rw [BitVec.extractLsb'_append_eq_of_le (by decide)]
    exact BitVec.extractLsb'_append_eq_right
  | 2 =>
    rw [BitVec.extractLsb'_append_eq_of_le (by decide), BitVec.extractLsb'_append_eq_of_le (by decide)]
    exact BitVec.extractLsb'_append_eq_right
  | 3 =>
    rw [BitVec.extractLsb'_append_eq_of_le (by decide), BitVec.extractLsb'_append_eq_of_le (by decide),
      BitVec.extractLsb'_append_eq_of_le (by decide)]
    exact BitVec.extractLsb'_eq_self

/-- Byte `k` of ROM_ADDR_LO is byte `k` of ROM_ADDR (10_state.md R33). -/
theorem romAddrLo_byte (a : BitVec 64) {k : Nat} (h : k < 4) :
    (a.extractLsb' 0 32).extractLsb' (8 * k) 8 = romByte a ⟨k, by omega⟩ :=
  BitVec.extractLsb'_extractLsb'_of_le (by omega)

/-- Byte `k` of ROM_ADDR_HI is byte `k + 4` of ROM_ADDR (10_state.md R33). -/
theorem romAddrHi_byte (a : BitVec 64) {k : Nat} (h : k < 4) :
    (a.extractLsb' 32 32).extractLsb' (8 * k) 8 = romByte a ⟨k + 4, by omega⟩ := by
  refine BitVec.eq_of_getLsbD_eq fun i hi => ?_
  have hin : 8 * k + i < 32 := by omega
  have hbit : 32 + (8 * k + i) = 8 * (k + 4) + i := by omega
  simp only [romByte, BitVec.getLsbD_extractLsb', hin, hbit, decide_true, Bool.true_and]

/-- Settles O34: byte by byte for ROM_ADDR and SP, by the extension of the single fields, and by the concatenation that
SENSOR_ALARM is. -/
theorem registersPackLittleEndian : Obligations.RegistersPackLittleEndian := by
  intro s
  refine ⟨fun k h => ⟨romAddrLo_byte s.romAddr h, romAddrHi_byte s.romAddr h,
    packWord_byte (fun j => s.sp[j.val]) ⟨k, h⟩, packWord_byte (fun j => s.sp[j.val + 4]) ⟨k, h⟩⟩,
    ?sp8, ?temp, ?alarmH, ?alarmL, ?above, ?res⟩
  case sp8 => exact BitVec.toNat_setWidth_of_le (by decide)
  case temp => exact BitVec.toInt_signExtend_of_le (by decide)
  case alarmH => exact BitVec.extractLsb'_append_eq_right
  case alarmL =>
    rw [regValue, BitVec.extractLsb'_append_eq_of_le (by decide)]
    exact BitVec.extractLsb'_append_eq_right
  case above =>
    rw [regValue, BitVec.extractLsb'_append_eq_of_le (by decide), BitVec.extractLsb'_append_eq_of_le (by decide)]
    exact BitVec.extractLsb'_zero
  case res => exact BitVec.toNat_setWidth_of_le (by decide)

end Sys2Proof.Machine

/-! PROOFS. The encoding (30_encoding.md): decoder and encoder as inverses, the illegal words, the assembler's lines, and
what SET_ADDR and an illegal word do to the block. -/
namespace Sys2Proof

open Sys2Proof.Laws

/-! ### The opcode map -/

/-- The opcode map gives a command back from its opcode and its DATA byte (30_encoding.md R72). -/
theorem decodeOp_opcode_data (i : Instr) : decodeOp i.opcode i.data = .ok i := by
  cases i <;> rfl

/-- A command the map gives for an opcode has that opcode and the word's DATA byte: row by row of the map. -/
theorem opcode_data_of_decodeOp {op : BitVec 4} {d : Byte} {i : Instr} (h : decodeOp op d = .ok i) :
    i.opcode = op ∧ i.data = d := by
  unfold decodeOp at h
  split at h
  case h_15 => cases h
  all_goals
    rename_i hop
    cases h
    exact ⟨BitVec.eq_of_toNat_eq hop.symm, rfl⟩

/-- The two reserved opcodes are those the map gives no command for (30_encoding.md R74). -/
theorem decodeOp_error_iff (op : BitVec 4) (d : Byte) :
    (∃ e, decodeOp op d = .error e) ↔ op = 0x0 ∨ op = 0xF := by
  constructor
  case mp =>
    rintro ⟨e, h⟩
    unfold decodeOp at h
    split at h
    case h_15 =>
      have hlt : op.toNat < 16 := op.isLt
      simp only [imp_false] at *
      have hop : op.toNat = 0 ∨ op.toNat = 15 := by omega
      exact hop.imp BitVec.eq_of_toNat_eq BitVec.eq_of_toNat_eq
    all_goals cases h
  case mpr =>
    rintro (rfl | rfl)
    · exact ⟨_, rfl⟩
    · exact ⟨_, rfl⟩

/-! ### Decoder and encoder -/

/-- Without a reserved bit the opcode decides (30_encoding.md R75). -/
theorem decode_of_unreserved {w : Word} (h0 : rsv0Field w = 0) (h1 : rsv1Field w = 0) :
    decode w = decodeOp (opField w) (dataField w) := by
  rw [decode, if_neg (by simp [h0, h1])]

/-- The decoder rejects a word with a reserved bit set, whatever its OP (30_encoding.md R73), and maps the opcode of any
other word. -/
theorem decode_cases (w : Word) :
    ((rsv0Field w ≠ 0 ∨ rsv1Field w ≠ 0) ∧ decode w = .error .reservedBits) ∨
    (rsv0Field w = 0 ∧ rsv1Field w = 0 ∧ decode w = decodeOp (opField w) (dataField w)) := by
  by_cases hrsv : rsv0Field w ≠ 0 ∨ rsv1Field w ≠ 0
  case pos => exact .inl ⟨hrsv, by rw [decode, if_pos (by simpa using hrsv.symm)]⟩
  case neg =>
    obtain ⟨h0, h1⟩ : rsv0Field w = 0 ∧ rsv1Field w = 0 := by simpa using hrsv
    exact .inr ⟨h0, h1, decode_of_unreserved h0 h1⟩

/-- A word is put together again from its four fields (30_encoding.md R70). -/
theorem fields_append (w : Word) : (rsv1Field w ++ dataField w ++ rsv0Field w ++ opField w : BitVec 32) = w := by
  unfold rsv1Field dataField rsv0Field opField
  rw [BitVec.extractLsb'_append_extractLsb'_eq_extractLsb' (start₁ := 8) (len₁ := 8) rfl,
    BitVec.extractLsb'_append_extractLsb'_eq_extractLsb' (start₁ := 4) (len₁ := 4) rfl,
    BitVec.extractLsb'_append_extractLsb'_eq_extractLsb' (start₁ := 0) (len₁ := 4) rfl]
  exact BitVec.extractLsb'_eq_self

theorem wordOf_fields {w : Word} (h0 : rsv0Field w = 0) (h1 : rsv1Field w = 0) :
    wordOf (opField w) (dataField w) = w := by
  calc wordOf (opField w) (dataField w)
      = (rsv1Field w ++ dataField w ++ rsv0Field w ++ opField w : BitVec 32) := by rw [h0, h1]; rfl
    _ = w := fields_append w

/-- The decoder reads the fields of an encoded word, which the opcode map takes back to the command. -/
theorem decode_encode (i : Instr) : decode (encode i) = .ok i := by
  obtain ⟨hop, h0, hdata, h1⟩ := EncodeFields.of_wordOf i
  rw [decode_of_unreserved h0 h1, hop, hdata, decodeOp_opcode_data]

/-- A legal word is the word of its command: the reserved fields are 0, and the map fixes OP and DATA. -/
theorem encode_of_decode {w : Word} {i : Instr} (h : decode w = .ok i) : encode i = w := by
  obtain ⟨-, hdec⟩ | ⟨h0, h1, hdec⟩ := decode_cases w
  · cases hdec.symm.trans h
  · obtain ⟨hop, hdata⟩ := opcode_data_of_decodeOp (hdec.symm.trans h)
    rw [encode_eq_wordOf, hop, hdata, wordOf_fields h0 h1]

/-- Settles O1: the fields of an encoded word in one direction, the inversion of the opcode map in the other. -/
theorem decodeAndEncodeAreInverse : Obligations.DecodeAndEncodeAreInverse :=
  ⟨decode_encode, fun _ _ => encode_of_decode⟩

/-- Settles O2: a reserved bit rejects the word, and without one the opcode map does. -/
theorem illegalWordsAreTheReservedOnes : Obligations.IllegalWordsAreTheReservedOnes := by
  intro w
  obtain ⟨hrsv, hdec⟩ | ⟨h0, h1, hdec⟩ := decode_cases w
  · exact iff_of_true ⟨_, hdec⟩ (hrsv.imp_right .inl)
  · rw [hdec, decodeOp_error_iff]
    simp [h0, h1]

/-- Settles O3: the legal examples are decoded and encoded again by `encode_of_decode`; the illegal ones are reserved. -/
theorem exampleWordsDecode : Obligations.ExampleWordsDecode := by
  refine ⟨fun p hp => ?legal, fun w hw => ?illegal⟩
  case legal =>
    have hdec : decode p.1 = .ok p.2 := by revert p; decide
    exact ⟨hdec, encode_of_decode hdec⟩
  case illegal =>
    refine (illegalWordsAreTheReservedOnes w).mpr ?_
    simp only [List.mem_cons, List.not_mem_nil, or_false] at hw
    obtain rfl | rfl | rfl | rfl := hw
    · decide
    · decide
    · decide
    · decide

/-! ### The assembler -/

/-- The word of an operand of a byte, as a number (30_encoding.md R72). -/
theorem wordOf_ofNat (op : BitVec 4) {imm : Nat} (h : imm ≤ 255) :
    wordOf op (BitVec.ofNat 8 imm) = BitVec.ofNat 32 (0x100 * imm + op.toNat) := by
  refine BitVec.eq_of_toNat_eq ?_
  have hop : op.toNat < 2 ^ 4 := op.isLt
  have hhigh : (0#16 ++ BitVec.ofNat 8 imm ++ 0#4 : BitVec 28).toNat = imm * 2 ^ 4 := by
    rw [BitVec.toNat_append, BitVec.toNat_append]
    simp [Nat.shiftLeft_eq, Nat.mod_eq_of_lt (Nat.lt_succ_of_le h)]
  rw [wordOf, BitVec.toNat_append, hhigh, ← Nat.shiftLeft_add_eq_or_of_lt hop, Nat.shiftLeft_eq, BitVec.toNat_ofNat]
  omega

theorem AsmLine.assemble_writeBit {imm : Nat} (h : imm ≤ 1) :
    (AsmLine.writeBit imm).assemble = some (.writeBit (BitVec.ofNat 8 imm)) := if_pos (decide_eq_true h)

theorem AsmLine.assemble_writeByte {imm : Nat} (h : imm ≤ 255) :
    (AsmLine.writeByte imm).assemble = some (.writeByte (BitVec.ofNat 8 imm)) := if_pos (decide_eq_true h)

theorem AsmLine.assemble_sendCommand {imm : Nat} (h : imm ≤ 255) :
    (AsmLine.sendCommand imm).assemble = some (.sendCommand (BitVec.ofNat 8 imm)) := if_pos (decide_eq_true h)

theorem AsmLine.assemble_crcFeed {imm : Nat} (h : imm ≤ 255) :
    (AsmLine.crcFeed imm).assemble = some (.crcFeed (BitVec.ofNat 8 imm)) := if_pos (decide_eq_true h)

/-- What is assembled is in canonical form: DATA is 0, any byte, or the operand 0 or 1 of WRITE_BIT. -/
theorem AsmLine.canonical_of_assemble {l : AsmLine} {i : Instr} (h : l.assemble = some i) : i.canonical = true := by
  unfold AsmLine.assemble at h
  split at h
  case isFalse => cases h
  case isTrue hwf =>
    cases l with
    | writeBit imm =>
      cases h
      have himm : imm ≤ 1 := of_decide_eq_true hwf
      exact decide_eq_true ((Nat.mod_le imm (2 ^ 8)).trans himm)
    | wr _ _ => cases h
    | rd _ => cases h
    | wait => cases h
    | _ => cases h; rfl

/-- Settles O4: the check guards the assembler; a line without an operand is a fixed word, and one with an operand in
range is `wordOf` of its opcode and operand. -/
theorem assemblerEncodesOnlyOperandsInRange : Obligations.AssemblerEncodesOnlyOperandsInRange := by
  refine ⟨fun l => ⟨fun hwf => if_neg (by simp [hwf]), fun _ => AsmLine.canonical_of_assemble⟩, by decide,
    fun imm h => ?bit, fun imm h => ⟨?byte, ?send, ?feed⟩⟩
  case bit =>
    rw [AsmLine.assemble_writeBit h]
    exact congrArg some (wordOf_ofNat 0x2 (h.trans (by decide)))
  case byte =>
    rw [AsmLine.assemble_writeByte h]
    exact congrArg some (wordOf_ofNat 0x4 h)
  case send =>
    rw [AsmLine.assemble_sendCommand h]
    exact congrArg some (wordOf_ofNat 0x7 h)
  case feed =>
    rw [AsmLine.assemble_crcFeed h]
    exact congrArg some (wordOf_ofNat 0xA h)

end Sys2Proof

namespace Sys2Proof.Machine

/-! ### SET_ADDR -/

/-- A 64-bit number is its high word followed by its low word (30_encoding.md R78). -/
theorem ofNat_append_words (a : Nat) :
    (BitVec.ofNat 32 (a / 2 ^ 32) ++ BitVec.ofNat 32 (a % 2 ^ 32) : BitVec 64) = BitVec.ofNat 64 a := by
  refine BitVec.eq_of_toNat_eq ?_
  rw [BitVec.toNat_append, ← Nat.shiftLeft_add_eq_or_of_lt (BitVec.isLt _), Nat.shiftLeft_eq]
  simp only [BitVec.toNat_ofNat]
  omega

theorem hostWrite_romAddrLo_idle (v : Word) {s : State} (hr : s.rstN = true) (hb : s.busy = false) :
    hostWrite 0x14 v s = .next { s with romAddr := (s.romAddr.extractLsb' 32 32 ++ v : BitVec 64) } := by
  rw [hostWrite_romAddrLo v hr rfl, writeRomLo_idle v hb]

theorem hostWrite_romAddrHi_idle (v : Word) {s : State} (hr : s.rstN = true) (hb : s.busy = false) :
    hostWrite 0x18 v s = .next { s with romAddr := (v ++ s.romAddr.extractLsb' 0 32 : BitVec 64) } := by
  rw [hostWrite_romAddrHi v hr rfl, writeRomHi_idle v hb]

/-- Settles O5: the first write replaces the low word of ROM_ADDR, the second the high word and keeps the low one. -/
theorem setAddrWritesTheAddress : Obligations.SetAddrWritesTheAddress := by
  intro s a _ hb hr
  have hlo := hostWrite_romAddrLo_idle (BitVec.ofNat 32 (a % 2 ^ 32)) hr hb
  refine ⟨rfl, _, hlo, ?_⟩
  rw [hostWrite_romAddrHi_idle _ (by exact hr) (by exact hb), BitVec.extractLsb'_append_eq_right, ofNat_append_words]

/-! ### An illegal word at CMD -/

theorem writeCmd_of_decode_error {v : Word} {e : DecodeError} (h : decode v = .error e) (s : State) :
    writeCmd v s = .next (offerIllegal (dataField v) s) := by
  simp only [writeCmd, h]

theorem offerIllegal_idle (d : Byte) {s : State} (h : s.busy = false) :
    offerIllegal d s = raise .illegalCommand (acceptFlags d s) := by
  rw [offerIllegal, if_neg (by simp [h])]

theorem offerIllegal_busy (d : Byte) {s : State} (h : s.busy = true) : offerIllegal d s = reject s := if_pos h

/-- Settles O8: the step offers the illegal word, which raises code 7 while idle and is refused while busy. -/
theorem illegalWordRaisesCodeSeven : Obligations.IllegalWordRaisesCodeSeven := by
  intro s w rest hev hr ⟨e, hdec⟩
  have hstep : step s = .next (offerIllegal (dataField w) { s with events := rest }) :=
    calc step s = hostWrite 0 w { s with events := rest } := step_of_events_cons hev
      _ = writeCmd w { s with events := rest } := hostWrite_cmd w hr rfl
      _ = .next (offerIllegal (dataField w) { s with events := rest }) := writeCmd_of_decode_error hdec _
  refine ⟨fun hb => ?idle, fun hb => ?busy⟩
  case idle => rw [hstep, offerIllegal_idle (s := { s with events := rest }) _ hb]; rfl
  case busy => rw [hstep, offerIllegal_busy (s := { s with events := rest }) _ hb]; rfl

end Sys2Proof.Machine

/-! PROOFS. The bus primitives (40_bus_primitives.md): a command whose segment list runs to its end completes, and so
RESET, WRITE_BIT and READ_BIT. -/
namespace Sys2Proof.Machine

open Sys2Proof.Laws

/-- A command's list that is run to its end completes in its last tick (60_exceptions.md R149): SEQ then enters the empty
list. -/
theorem Runs.completes {op body line n s s' wave} (h : Runs op body line n s s' wave) :
    busyFor line n (enter op body s) ∧ (∀ k, k < n → drive (ticks line k (enter op body s)) = wave k) ∧
      (ticks line n (enter op body s)).visible = (complete s').visible := by
  have hbusy := busyFor_of h []
  have hdrive := drive_of h []
  have hlast := (h []).1
  rw [List.append_nil] at hbusy hdrive hlast
  refine ⟨hbusy, hdrive, ?_⟩
  rw [hlast]
  rfl

/-- An assignment after a run acts on the state the run leads to, within the same ticks. -/
theorem Runs.append_act {op body line n s s' wave} {a : Act} (h : Runs op body line n s s' wave)
    (ha : (runAct a s').2 = none) : Runs op (body ++ [.act a]) line n s (runAct a s').1 wave :=
  (h.append (Runs.act (w := wave) ha)).congr fun _ hk => if_pos hk

/-- Settles O12: the two failures are those of any list that begins with the RESET sequence; on a bus that answers the
sequence runs to its end. -/
theorem resetCommand : Obligations.ResetCommand := by
  intro s d hr hb
  have hfails : resetFails (.reset d) s (enter 0x1 (resetSeq s.cfg) (accepted d id s)) :=
    resetFails_of (.reset d) 0x1 id [] s hr (fun _ => rfl) (fun _ => rfl)
  refine ⟨_, offer_idle _ _ _ _ _ hb, opField_wordOf 0x1 d, hfails, fun line w hhigh hpres => ?_⟩
  have hrun := Runs.resetSeq (op := 0x1) (s := accepted d id s) hhigh hpres rfl
  exact hrun.completes

/-- Settles O13: the list is one write slot, whose bit is bit 0 of the byte latched at acceptance. -/
theorem writeBitCommand : Obligations.WriteBitCommand := by
  intro s d hr hb
  refine ⟨_, offer_idle _ _ _ _ _ hb, opField_wordOf 0x2 d, fun line => ?_⟩
  have hrun := Runs.wslot (op := 0x2) (src := .cmdData0) (line := line) (s := accepted d id s) hr rfl
  exact hrun.completes

/-- Settles O14: the list is one read slot, whose sample is latched on tick T_RL + T_RS, and the assignment of that
sample to RX_DATA. -/
theorem readBitCommand : Obligations.ReadBitCommand := by
  intro s d hr hb
  refine ⟨_, offer_idle _ _ _ _ _ hb, opField_wordOf 0x3 d, fun line => ?_⟩
  have hslot := Runs.rslot (op := 0x3) (line := line) (s := accepted d id s) hr rfl
  exact (hslot.append_act (a := .rxBit) rfl).completes

end Sys2Proof.Machine

/-! PROOFS. Bytes and select (41_bytes_and_select.md): WRITE_BYTE, READ_BYTE, MATCH_ADDRESS and SEND_COMMAND. The runs of
the sequences are composed into one run of each command's list, which then completes. -/
namespace Sys2Proof.Machine

open Sys2Proof.Laws

/-- The MATCH_ADDRESS sequence sends its nine bytes whatever the line reads (41_bytes_and_select.md R98). -/
theorem Runs.matchSeq {op : BitVec 4} {line : Nat → Bool} {s : State} (hr : s.cfg.inRange = true)
    (hb : s.busy = true) :
    ∃ sh bc, Runs op (matchSeq s.cfg) line (matchTicks s.cfg) s { s with shift := sh, bitCnt := bc }
      (writeWave s.cfg (wireBits (matchBytes s))) := by
  obtain ⟨sh, bc, hrun⟩ := Runs.wbytes (op := op) (line := line) (matchSrcs s.cfg) hr hb
  rw [← matchSeq_eq, matchSrcs_bytes] at hrun
  exact ⟨sh, bc, hrun⟩

/-- The bytes SEND_COMMAND sends, each from its source (41_bytes_and_select.md R99). -/
theorem progSendCommand_eq (c : Config) :
    progSendCommand c = resetSeq c ++ (matchSrcs c ++ [ByteSrc.cmdData]).flatMap (wbyte c) := by
  simp [progSendCommand, matchSeq_eq]

/-- SEND_COMMAND on a bus that answers: the RESET sequence, the nine match bytes and CMD_DATA
(41_bytes_and_select.md R99). -/
theorem runs_progSendCommand {op : BitVec 4} {line : Nat → Bool} {s : State} {w : Nat} (hr : s.cfg.inRange = true)
    (hb : s.busy = true) (hhigh : highAfter line s.cfg.tWaitHighMax w) (hpres : presence s.cfg line w) :
    ∃ sh bc, Runs op (progSendCommand s.cfg) line (spBase s.cfg w) s
      { s with presSeen := true, shift := sh, bitCnt := bc }
      (resetThenBytes s.cfg w (matchBytes s ++ [s.cmdData])) := by
  obtain ⟨sh, bc, hrun⟩ := runs_resetThen (op := op) (matchSrcs s.cfg ++ [ByteSrc.cmdData]) hr hb hhigh hpres
  have hbytes : (matchSrcs s.cfg ++ [ByteSrc.cmdData]).map (readByteSrc s) = matchBytes s ++ [s.cmdData] := by
    rw [List.map_append, matchSrcs_bytes]
    rfl
  have hlength : (matchSrcs s.cfg ++ [ByteSrc.cmdData]).length = 10 := rfl
  have hticks : resetTicks s.cfg w + 10 * (8 * slotTicks s.cfg) = spBase s.cfg w := by
    simp only [spBase, matchTicks]
    omega
  rw [← progSendCommand_eq, hbytes, hlength, hticks] at hrun
  exact ⟨sh, bc, hrun⟩

/-- Settles O15: the list is one byte sent, taken from the CMD_DATA latched at acceptance. -/
theorem writeByteCommand : Obligations.WriteByteCommand := by
  intro s d hr hb
  refine ⟨_, offer_idle _ _ _ _ _ hb, opField_wordOf 0x4 d, fun line => ?_⟩
  have hrun := Runs.wbyte (op := 0x4) (src := .cmdData) (line := line) (s := accepted d id s) hr rfl
  exact hrun.completes

/-- Settles O16: the list is one byte received and its assignment to RX_DATA; the byte is the one the eight samples shift
in. -/
theorem readByteCommand : Obligations.ReadByteCommand := by
  intro s d hr hb
  refine ⟨_, offer_idle _ _ _ _ _ hb, opField_wordOf 0x5 d, fun line => ?_⟩
  have hbyte := Runs.rbyte (op := 0x5) (line := line) (s := accepted d id s) hr rfl
  obtain ⟨hbusy, hdrive, hend⟩ := (hbyte.append_act (a := .rxByte) rfl).completes
  exact ⟨hbusy, hdrive, shiftedIn (fun i => line (i * s.cfg.tRslot + sampleTick s.cfg)) 8, shiftedIn_bit _, hend⟩

/-- Settles O17: the list is the MATCH_ADDRESS sequence, which checks nothing of ROM_ADDR. -/
theorem matchAddressCommand : Obligations.MatchAddressCommand := by
  intro s d hr hb
  refine ⟨_, offer_idle _ _ _ _ _ hb, opField_wordOf 0x6 d, fun line => ?_⟩
  obtain ⟨sh, bc, hrun⟩ := Runs.matchSeq (op := 0x6) (line := line) (s := accepted d id s) hr rfl
  exact hrun.completes

/-- Settles O18: the two failures are those of any list that begins with the RESET sequence; on a bus that answers the
whole list runs to its end. -/
theorem sendCommandCommand : Obligations.SendCommandCommand := by
  intro s d hr hb
  have hfails : resetFails (.sendCommand d) s (enter 0x7 (progSendCommand s.cfg) (accepted d id s)) := by
    rw [progSendCommand_eq]
    exact resetFails_of (.sendCommand d) 0x7 id _ s hr (fun _ => rfl) (fun _ => rfl)
  refine ⟨_, offer_idle _ _ _ _ _ hb, opField_wordOf 0x7 d, hfails, fun line w hhigh hpres => ?_⟩
  obtain ⟨sh, bc, hrun⟩ := runs_progSendCommand (op := 0x7) (s := accepted d id s) hr rfl hhigh hpres
  exact hrun.completes

end Sys2Proof.Machine

/-! PROOFS. Search (42_search.md): the pair table, and SEARCH_FIRST. The runs of the search are composed into one run up
to each place where the command can end: the CRC check after the last bit, and the decision on a pair. -/
namespace Sys2Proof.Machine

open Sys2Proof.Laws

/-- Settles O19: a mixed pair is decided before the map is looked at, an equal pair by the map. -/
theorem pairDecideTable : Obligations.PairDecideTable :=
  ⟨fun _ => ⟨rfl, rfl⟩, rfl, rfl, rfl, rfl⟩

/-! ### The end of a command by a check -/

/-- From `t` the block is busy for `n` ticks, drives the line by `wave`, and then shows the host the state `u`: the form
of what a statement about a command says of one line. -/
def EndsIn (line : Nat → Bool) (n : Nat) (t : State) (wave : Nat → Bool) (u : State) : Prop :=
  busyFor line n t ∧ (∀ k, k < n → drive (ticks line k t) = wave k) ∧ (ticks line n t).visible = u.visible

theorem EndsIn.congr {line n t wave u v} (h : EndsIn line n t wave u) (huv : u.visible = v.visible) :
    EndsIn line n t wave v := by
  obtain ⟨hbusy, hdrive, hend⟩ := h
  exact ⟨hbusy, hdrive, hend.trans huv⟩

/-- A check after a run that raises ends the command in the run's last tick (60_exceptions.md R148). -/
theorem Runs.raises {op body line n s s' wave} {a : Act} {e : ErrCode} (h : Runs op body line n s s' wave)
    (ha : (runAct a s').2 = some e) (rest : List Seg) :
    EndsIn line n (enter op (body ++ .act a :: rest) s) wave (raise e (runAct a s').1) := by
  refine ⟨busyFor_of h _, drive_of h _, ?_⟩
  rw [(h _).1, enter_act_raise op a rest s' e ha]
  rfl

theorem runAct_crcCheck_pass {s : State} (h : s.crc = 0) : runAct .crcCheck s = (s, none) := by
  simp only [runAct, if_pos h]

theorem runAct_crcCheck_fail {s : State} (h : s.crc ≠ 0) : runAct .crcCheck s = (s, some .checksumFailed) := by
  simp only [runAct, if_neg h]

theorem runAct_searchDecide_none {s : State} (h : pairDecide s.cfg.searchPairMap s.trueBit s.rdBit = none) :
    runAct .searchDecide s = (s, some .noResponseToSearch) := by
  simp only [runAct, h]

/-- What the host sees after an error depends only on what it saw before. -/
theorem raise_visible_congr {s t : State} (e : ErrCode) (h : s.visible = t.visible) :
    (raise e s).visible = (raise e t).visible :=
  congrArg (raise e) h

/-! ### The runs of the search -/

/-- SEARCH_FIRST before its first bit (42_search.md R113). -/
def searchHead (c : Config) : List Seg :=
  resetSeq c ++ wbyte c (.const c.cmdSearchRom) ++ [.act .searchInit, .act .crcClear]

/-- The two read slots of a search bit, up to its decision (42_search.md R113). -/
def slotPair (c : Config) : List Seg := rslot c ++ [.act .latchTrue] ++ rslot c

/-- What follows the decision on a search bit (42_search.md R113). -/
def afterDecide (c : Config) : List Seg := wslot c .chosen ++ [.act .searchStep]

/-- The list of SEARCH_FIRST, cut at its CRC check. -/
theorem progSearchFirst_eq (c : Config) :
    progSearchFirst c = (searchHead c ++ rounds 64 (searchBit c)) ++ .act .crcCheck :: [.act .romFromAcc] := rfl

theorem searchBit_eq (c : Config) : searchBit c = slotPair c ++ .act .searchDecide :: afterDecide c := by
  simp [searchBit, slotPair, afterDecide]

/-- The list of SEARCH_FIRST, cut at the decision on pair `i`. -/
theorem progSearchFirst_eq_at {i : Nat} (hi : i < 64) (c : Config) :
    ∃ rest, progSearchFirst c = (searchHead c ++ rounds i (searchBit c) ++ slotPair c) ++ .act .searchDecide :: rest := by
  obtain ⟨m, hm⟩ : ∃ m, 64 = i + (m + 1) := ⟨63 - i, by omega⟩
  have hrounds : rounds 64 (searchBit c) = rounds i (searchBit c) ++ (searchBit c ++ rounds m (searchBit c)) := by
    rw [hm, rounds_add, rounds]
  refine ⟨afterDecide c ++ rounds m (searchBit c) ++ [.act .crcCheck, .act .romFromAcc], ?_⟩
  rw [progSearchFirst_eq, hrounds]
  simp [searchBit_eq c]

/-- The bits of a search change CRC and nothing else the host can see. -/
theorem searched_visible (a : BitVec 64) {s : State} (hcrc : s.crc = 0) (f : Nat → Bool × Bool) (n : Nat) :
    (searched a s f n).visible = { s with crc := crcOfBits a n }.visible := by
  cases n with
  | zero =>
    have h0 : crcOfBits a 0 = s.crc := hcrc.symm
    rw [h0]
    rfl
  | succ n => rfl

theorem searched_searchAcc (a : BitVec 64) {s : State} (hacc : s.searchAcc = 0) (f : Nat → Bool × Bool) (n : Nat) :
    (searched a s f n).searchAcc = accUpto a n := by
  cases n with
  | zero => exact hacc
  | succ n => rfl

/-- On the two read slots of a search bit the line is driven as in any read slots (42_search.md R113). -/
theorem searchBitsWave_slotPair {c : Config} (a : BitVec 64) (n : Nat) {r : Nat} (h : r < 2 * c.tRslot) :
    searchBitsWave c a (n * searchBitTicks c + r) = readWave c r := by
  have hmod : (n * searchBitTicks c + r) % searchBitTicks c = r :=
    Nat.mul_add_mod_of_lt (by simp only [searchBitTicks]; omega)
  rw [searchBitsWave, hmod, if_pos h]

theorem searchWave_slotPair {c : Config} (w : Nat) (a : BitVec 64) (n : Nat) {r : Nat} (h : r < 2 * c.tRslot) :
    searchWave c w a (searchBase c w + n * searchBitTicks c + r) = readWave c r := by
  rw [searchWave, if_neg (by omega), Nat.add_assoc, Nat.add_sub_cancel_left, searchBitsWave_slotPair a n h]

/-- The two read slots, for the parameters the state is known to hold. -/
theorem runs_slotPair_of_cfg {op : BitVec 4} {line : Nat → Bool} {s : State} {c : Config} (hc : s.cfg = c)
    (hr : c.inRange = true) (hb : s.busy = true) :
    Runs op (slotPair c) line (2 * c.tRslot) s
      { s with trueBit := line (sampleTick c), rdBit := line (c.tRslot + sampleTick c) } (readWave c) := by
  subst hc
  exact runs_slotPair hr hb

section
variable {op : BitVec 4} {line : Nat → Bool} {s : State} {w n : Nat} {a : BitVec 64} (hr : s.cfg.inRange = true)
  (hb : s.busy = true) (hhigh : highAfter line s.cfg.tWaitHighMax w) (hpres : presence s.cfg line w)

include hr hb hhigh hpres

/-- The first `n` bits of the search, each chosen as that of `a` (42_search.md R113, R115). -/
theorem runs_searchPrefix (hn : n ≤ 64)
    (hpairs : ∀ i, i < n → searchPair s.cfg line w i = some (a.getLsbD i)) :
    ∃ s', Runs op (searchHead s.cfg ++ rounds n (searchBit s.cfg)) line (searchBase s.cfg w + n * searchBitTicks s.cfg)
        s s' (searchWave s.cfg w a) ∧
      s'.visible = { s with crc := crcOfBits a n }.visible ∧ s'.searchAcc = accUpto a n := by
  obtain ⟨sh, bc, hhead⟩ := runs_searchHead (op := op) hr hb hhigh hpres
  obtain ⟨f, hbits⟩ := runs_searchBits (op := op)
    (s := { s with presSeen := true, shift := sh, bitCnt := bc, searchAcc := 0, searchIdx := 0, crc := 0 })
    (line := fun k => line (searchBase s.cfg w + k)) a hr hb rfl rfl rfl n hn
    (fun i hi => by simpa only [searchPair, Nat.add_assoc] using hpairs i hi)
  exact ⟨_, hhead.append hbits, searched_visible a rfl f n, searched_searchAcc a rfl f n⟩

/-- The search up to the decision on pair `n`, whose samples it has then taken (42_search.md R113). -/
theorem runs_searchToDecide (hn : n ≤ 64)
    (hpairs : ∀ i, i < n → searchPair s.cfg line w i = some (a.getLsbD i)) :
    ∃ s', Runs op (searchHead s.cfg ++ rounds n (searchBit s.cfg) ++ slotPair s.cfg) line
        (searchBase s.cfg w + n * searchBitTicks s.cfg + 2 * s.cfg.tRslot) s s' (searchWave s.cfg w a) ∧
      s'.visible = { s with crc := crcOfBits a n }.visible ∧
      pairDecide s'.cfg.searchPairMap s'.trueBit s'.rdBit = searchPair s.cfg line w n := by
  obtain ⟨s1, hbits, hvis, -⟩ := runs_searchPrefix (op := op) hr hb hhigh hpres hn hpairs
  have hcfg : s1.cfg = s.cfg := (congrArg State.cfg hvis :)
  have hbusy : s1.busy = true := (congrArg State.busy hvis :).trans hb
  have hpair := runs_slotPair_of_cfg (op := op) (line := fun k => line (searchBase s.cfg w + n * searchBitTicks s.cfg + k))
    hcfg hr hbusy
  refine ⟨_, (hbits.append hpair).congr fun k hk => ?wave, hvis, ?pair⟩
  case wave =>
    split
    · rfl
    next hge =>
      obtain ⟨r, rfl⟩ := Nat.exists_eq_add_of_le (Nat.le_of_not_lt hge)
      rw [Nat.add_sub_cancel_left, searchWave_slotPair w a n (by omega)]
  case pair => simp only [searchPair, hcfg, Nat.add_assoc]

/-! ### The three ends of the search -/

/-- The 64 bits of `a` are in ROM_ADDR at the end when their CRC is 0 (42_search.md R115, R116). -/
theorem searchFirst_passes (hpairs : ∀ i, i < 64 → searchPair s.cfg line w i = some (a.getLsbD i))
    (h0 : crc8 (romBytes a) = 0) :
    EndsIn line (searchBase s.cfg w + 64 * searchBitTicks s.cfg) (enter op (progSearchFirst s.cfg) s)
      (searchWave s.cfg w a) (complete { s with crc := 0, romAddr := a }) := by
  obtain ⟨s', hrun, hvis, hacc⟩ := runs_searchPrefix (op := op) hr hb hhigh hpres (Nat.le_refl 64) hpairs
  rw [← crc8_romBytes, h0] at hvis
  rw [accUpto_all] at hacc
  have hcheck : runAct .crcCheck s' = (s', none) := runAct_crcCheck_pass (congrArg State.crc hvis)
  have hrom : (runAct .romFromAcc s').1 = { s' with romAddr := a } := by rw [← hacc]; rfl
  have hchecked := hrun.append_act (a := .crcCheck) (by rw [hcheck])
  rw [hcheck] at hchecked
  have hend : EndsIn line _ _ _ _ := (hchecked.append_act (a := .romFromAcc) rfl).completes
  rw [List.append_assoc _ [_] [_], hrom] at hend
  rw [progSearchFirst_eq]
  exact hend.congr (congrArg (fun t : State => complete { t with romAddr := a }) hvis)

/-- A residue over the 64 bits of `a` ends in code 4 (42_search.md R115, R116). -/
theorem searchFirst_failsCrc (hpairs : ∀ i, i < 64 → searchPair s.cfg line w i = some (a.getLsbD i))
    (h0 : crc8 (romBytes a) ≠ 0) :
    EndsIn line (searchBase s.cfg w + 64 * searchBitTicks s.cfg) (enter op (progSearchFirst s.cfg) s)
      (searchWave s.cfg w a) (raise .checksumFailed { s with crc := crc8 (romBytes a) }) := by
  obtain ⟨s', hrun, hvis, -⟩ := runs_searchPrefix (op := op) hr hb hhigh hpres (Nat.le_refl 64) hpairs
  rw [← crc8_romBytes] at hvis
  have hcrc : s'.crc = crc8 (romBytes a) := congrArg State.crc hvis
  have hcheck := runAct_crcCheck_fail (s := s') (by rw [hcrc]; exact h0)
  have hend := hrun.raises (a := .crcCheck) (by rw [hcheck]) [.act .romFromAcc]
  rw [hcheck] at hend
  rw [progSearchFirst_eq]
  exact hend.congr (raise_visible_congr _ hvis)

/-- The first pair that means no response ends the search after its two read slots (42_search.md R113, R114). -/
theorem searchFirst_noResponse (hn : n < 64)
    (hpairs : ∀ j, j < n → searchPair s.cfg line w j = some (a.getLsbD j)) (hnone : searchPair s.cfg line w n = none) :
    EndsIn line (searchBase s.cfg w + n * searchBitTicks s.cfg + 2 * s.cfg.tRslot)
      (enter op (progSearchFirst s.cfg) s) (searchWave s.cfg w a)
      (raise .noResponseToSearch { s with crc := crcOfBits a n }) := by
  obtain ⟨s', hrun, hvis, hdecide⟩ := runs_searchToDecide (op := op) hr hb hhigh hpres (Nat.le_of_lt hn) hpairs
  obtain ⟨rest, hprog⟩ := progSearchFirst_eq_at hn s.cfg
  have hcheck := runAct_searchDecide_none (hdecide.trans hnone)
  have hend := hrun.raises (a := .searchDecide) (by rw [hcheck]) rest
  rw [hcheck] at hend
  rw [hprog]
  exact hend.congr (raise_visible_congr _ hvis)

end

/-- Settles O20: the reset errors are those of any list that begins with the RESET sequence; after it the search either
chooses all 64 bits and is checked, or stops at the first pair that means no response. -/
theorem searchFirstCommand : Obligations.SearchFirstCommand := by
  intro s d hr hb
  have hfails : resetFails (.searchFirst d) s (enter 0x8 (progSearchFirst s.cfg) (accepted d id s)) := by
    simp only [progSearchFirst, List.append_assoc]
    exact resetFails_of (.searchFirst d) 0x8 id _ s hr (fun _ => rfl) (fun _ => rfl)
  refine ⟨_, offer_idle _ _ _ _ _ hb, opField_wordOf 0x8 d, hfails, fun line w a hhigh hpres =>
    ⟨fun hpairs => ?chosen, fun i hi hpairs hnone => ?noResponse⟩⟩
  case chosen =>
    split
    next h0 => exact searchFirst_passes (op := 0x8) (s := accepted d id s) hr rfl hhigh hpres hpairs h0
    next h0 => exact searchFirst_failsCrc (op := 0x8) (s := accepted d id s) hr rfl hhigh hpres hpairs h0
  case noResponse =>
    exact searchFirst_noResponse (op := 0x8) (s := accepted d id s) hr rfl hhigh hpres hi hpairs hnone

end Sys2Proof.Machine

/-! PROOFS. CRC-8 (43_crc8.md): the accumulator as a function of the bytes fed, and the four commands of one released
tick. A byte that is fed acts as if it were first added to the accumulator (`crc8Byte_eq_xor`), and feeding is injective;
from these two facts follow the residue of a sequence with its own CRC and the detection of a changed byte. -/
namespace Sys2Proof.Machine

open Sys2Proof.Laws Function

/-! ### One bit -/

/-- The bit shifted out, added to the bit fed, comes back as the top bit: the polynomial has it and the shift clears it. -/
theorem crc8Step_top (c : Byte) (b : Bool) : (crc8Step c b).getLsbD 7 = Bool.xor (c.getLsbD 0) b := by
  unfold crc8Step
  split
  next h => rw [h]; simp
  next h => rw [Bool.eq_false_iff.2 h]; simp

/-- Two bytes with the same low bit and the same other bits are equal. -/
theorem eq_of_low_of_shift {c c' : Byte} (hlow : c.getLsbD 0 = c'.getLsbD 0) (hshift : c >>> 1 = c' >>> 1) : c = c' := by
  refine BitVec.eq_of_getLsbD_eq fun i _ => ?_
  cases i with
  | zero => exact hlow
  | succ i => simpa [Nat.add_comm 1 i] using congrArg (BitVec.getLsbD · i) hshift

/-- A fed bit can be taken back: the top bit tells whether the polynomial was added. -/
theorem crc8Step_injective (b : Bool) : Injective (crc8Step · b) := by
  intro c c' (h : crc8Step c b = crc8Step c' b)
  have hlow : c.getLsbD 0 = c'.getLsbD 0 := by
    have htop := congrArg (BitVec.getLsbD · 7) h
    simpa only [crc8Step_top, Bool.xor_left_inj] using htop
  refine eq_of_low_of_shift hlow ?_
  simp only [crc8Step, hlow] at h
  split at h
  next => exact (BitVec.xor_left_inj _).1 h
  next => exact h

/-- What is added to the accumulator is shifted with it when its low bit is the bit fed. -/
theorem crc8Step_xor (x y : Byte) : crc8Step (x ^^^ y) (y.getLsbD 0) = crc8Step x false ^^^ y >>> 1 := by
  simp only [crc8Step, BitVec.getLsbD_xor, Bool.xor_assoc, Bool.xor_self, BitVec.ushiftRight_xor_distrib]
  split
  next => rw [BitVec.xor_assoc, BitVec.xor_assoc, BitVec.xor_comm (y >>> 1)]
  next => rfl

/-! ### One byte and a sequence -/

/-- A fold of injective steps is injective in the value it starts from. -/
theorem foldl_injective {α β : Type} {f : α → β → α} (hf : ∀ b, Injective (f · b)) (l : List β) :
    Injective (l.foldl f ·) := by
  induction l with
  | nil => exact injective_id
  | cons b l ih => exact ih.comp (hf b)

theorem crc8Byte_left_injective (d : Byte) : Injective (crc8Byte · d) :=
  foldl_injective (fun i : Fin 8 => crc8Step_injective (d.getLsbD i.val)) (List.finRange 8)

theorem crc8From_left_injective (ds : List Byte) : Injective (crc8From · ds) := foldl_injective crc8Byte_left_injective ds

/-- The accumulator after the low `n` bits of `d`. -/
def crc8Bits (c d : Byte) (n : Nat) : Byte := (List.range n).foldl (fun c i => crc8Step c (d.getLsbD i)) c

theorem crc8Bits_succ (c d : Byte) (n : Nat) : crc8Bits c d (n + 1) = crc8Step (crc8Bits c d n) (d.getLsbD n) := by
  rw [crc8Bits, List.range_succ, List.foldl_concat, crc8Bits]

theorem crc8Byte_eq_crc8Bits (c d : Byte) : crc8Byte c d = crc8Bits c d 8 := rfl

/-- Feeding the low bits of `d` is feeding zeros to `c ^^^ d`, up to the bits of `d` that are still to come. -/
theorem crc8Bits_eq_xor (c d : Byte) (n : Nat) : crc8Bits c d n = crc8Bits (c ^^^ d) 0 n ^^^ d >>> n := by
  induction n with
  | zero => simp [crc8Bits]
  | succ n ih =>
    have hbit : d.getLsbD n = (d >>> n).getLsbD 0 := by simp
    have hzero : (0 : Byte).getLsbD n = false := BitVec.getLsbD_zero
    rw [crc8Bits_succ, ih, hbit, crc8Step_xor, crc8Bits_succ, hzero, BitVec.shiftRight_add]

/-- Feeding `d` is feeding a zero byte to `c ^^^ d`. -/
theorem crc8Byte_eq_xor (c d : Byte) : crc8Byte c d = crc8Byte (c ^^^ d) 0 := by
  have hdone : d >>> 8 = 0#8 := BitVec.ushiftRight_eq_zero (Nat.le_refl 8)
  rw [crc8Byte_eq_crc8Bits, crc8Bits_eq_xor, hdone, BitVec.xor_zero, crc8Byte_eq_crc8Bits]

/-- The accumulator fed with its own value is 0 (43_crc8.md R121). -/
theorem crc8Byte_self (c : Byte) : crc8Byte c c = 0 := by
  rw [crc8Byte_eq_xor, BitVec.xor_self]
  rfl

theorem crc8Byte_right_injective (c : Byte) : Injective (crc8Byte c) := by
  intro d d' h
  rw [crc8Byte_eq_xor c d, crc8Byte_eq_xor c d'] at h
  exact (BitVec.xor_right_inj c).1 (crc8Byte_left_injective 0 h)

/-! ### The residue -/

theorem crc8_concat (ds : List Byte) (d : Byte) : crc8 (ds ++ [d]) = crc8Byte (crc8 ds) d := List.foldl_concat ..

theorem crc8_concat_self (ds : List Byte) : crc8 (ds ++ [crc8 ds]) = 0 := by rw [crc8_concat, crc8Byte_self]

theorem crc8_replicate_zero (n : Nat) : crc8 (List.replicate n 0) = 0 := by
  induction n with
  | zero => rfl
  | succ n ih => rw [List.replicate_succ', crc8_concat, ih, crc8Byte_self]

theorem romBytes_zero : romBytes 0 = List.replicate 8 0 := by decide

/-- Settles O26: the last byte fed is the value of the accumulator (`crc8Byte_self`); the address 0 is eight zero bytes. -/
theorem sequenceWithItsCrcPasses : Obligations.SequenceWithItsCrcPasses :=
  ⟨crc8_concat_self, crc8_replicate_zero 8, by rw [romBytes_zero, crc8_replicate_zero]⟩

/-- One changed byte changes the accumulator at once, and the bytes after it cannot make up for that. -/
theorem crc8From_modify_ne {f : Byte → Byte} (hf : ∀ b, f b ≠ b) {ds : List Byte} {k : Nat} (hk : k < ds.length)
    (c : Byte) : crc8From c (ds.modify k f) ≠ crc8From c ds := by
  induction ds generalizing k c with
  | nil => cases hk
  | cons d ds ih =>
    cases k with
    | zero =>
      have hbyte : crc8Byte c (f d) ≠ crc8Byte c d := (crc8Byte_right_injective c).ne (hf d)
      exact (crc8From_left_injective ds).ne hbyte
    | succ k => exact ih (Nat.lt_of_succ_lt_succ hk) (crc8Byte c d)

/-- Flipping a bit changes the byte. -/
theorem xor_oneBit_ne {i : Nat} (hi : i < 8) (b : Byte) : b ^^^ (1#8 <<< i) ≠ b := by
  intro h
  have hbit := congrArg (BitVec.getLsbD · i) h
  simp [hi] at hbit

/-- Settles O27: unchanged the sequence has the residue 0, and a flipped bit changes the residue. -/
theorem singleBitErrorIsDetected : Obligations.SingleBitErrorIsDetected := by
  intro ds k i hk hi
  have hchanged : crc8 ((ds ++ [crc8 ds]).modify k (· ^^^ (1#8 <<< i))) ≠ crc8 (ds ++ [crc8 ds]) :=
    crc8From_modify_ne (xor_oneBit_ne hi) hk 0
  rwa [crc8_concat_self] at hchanged

/-- Settles O25: each value of R120 is computed. -/
theorem crcExamples : Obligations.CrcExamples := by
  unfold Obligations.CrcExamples
  decide +kernel

/-! ### The commands -/

/-- A command of one released tick, offered while BUSY = 0: busy, the line released, and after one tick its assignments
are entered (43_crc8.md R122). -/
theorem offer_oneReleasedTick (op : BitVec 4) (d : Byte) (acts : List Seg) {s : State} (hb : s.busy = false) :
    ∃ t, offer op d id (.rel 1 :: acts) s = .next t ∧ t.busy = true ∧ drive t = false ∧
      ∀ line, tick t line = enter op acts (accepted d id s) :=
  ⟨_, offer_idle op d id _ s hb, rfl, rfl, tick_rel_one op acts _⟩

/-- The CRC check at the end of a command decides the code it ends with, and nothing else (43_crc8.md R124). -/
theorem enter_crcCheck_visible (op : BitVec 4) (d : Byte) (s : State) :
    (enter op [.act .crcCheck] (accepted d id s)).visible =
      (ended d (if s.crc = 0 then .none else .checksumFailed) s).visible := by
  have hcrc : (accepted d id s).crc = s.crc := rfl
  rw [enter_crcCheck, hcrc]
  split
  next => rfl
  next => rfl

/-- Settles O21: the assignment after the tick is `CRC <- 0`. -/
theorem crcClearCommand : Obligations.CrcClearCommand := by
  intro s d line hb
  obtain ⟨t, hexec, hbusy, hdrive, htick⟩ := offer_oneReleasedTick 0x9 d [.act .crcClear] hb
  exact ⟨t, hexec, opField_wordOf 0x9 d, hbusy, hdrive, by rw [htick]; rfl⟩

/-- Settles O22: the assignment after the tick feeds the byte latched at acceptance. -/
theorem crcFeedCommand : Obligations.CrcFeedCommand := by
  intro s d line hb
  obtain ⟨t, hexec, hbusy, hdrive, htick⟩ := offer_oneReleasedTick 0xA d [.act .crcFeed] hb
  exact ⟨t, hexec, opField_wordOf 0xA d, hbusy, hdrive, by rw [htick]; rfl⟩

/-- Settles O23: the check after the tick looks at the CRC of before the command. -/
theorem crcCheckCommand : Obligations.CrcCheckCommand := by
  intro s d line hb
  obtain ⟨t, hexec, hbusy, hdrive, htick⟩ := offer_oneReleasedTick 0xB d [.act .crcCheck] hb
  exact ⟨t, hexec, opField_wordOf 0xB d, hbusy, hdrive, by rw [htick, enter_crcCheck_visible]⟩

/-- Settles O24: after the tick the residue of the address goes to CRC, and the check is that of CRC_CHECK on it. -/
theorem checkAddrCommand : Obligations.CheckAddrCommand := by
  intro s d line hb
  obtain ⟨t, hexec, hbusy, hdrive, htick⟩ := offer_oneReleasedTick 0xC d [.act .crcAddr, .act .crcCheck] hb
  have hcheck := enter_crcCheck_visible 0xC d { s with crc := crc8 (romBytes s.romAddr) }
  refine ⟨t, hexec, opField_wordOf 0xC d, hbusy, hdrive, ?_⟩
  rw [htick, enter_act _ .crcAddr _ _ rfl]
  exact hcheck

end Sys2Proof.Machine

/-! PROOFS. The scratchpad (44_scratchpad.md): READ_SCRATCHPAD and READ_SENSOR, the resolution table, and the consumer's
temperature. What the scratchpad read `SP_READ` does is said once, as the run up to its CRC check and as the two ways on
from there; the ends of both commands follow from it. -/
namespace Sys2Proof.Machine

open Sys2Proof.Laws

/-! ### The resolution table -/

theorem resDecode_nil (b : Byte) : resDecode [] b = none := rfl

/-- The first row whose pattern is the whole config byte gives the code (44_scratchpad.md R133). -/
theorem resDecode_cons (r : ResRow) (table : List ResRow) (b : Byte) :
    resDecode (r :: table) b = if b = r.pattern then some r.code else resDecode table b := by
  rw [resDecode, List.find?_cons]
  by_cases h : b = r.pattern
  · simp [h]
  · rw [if_neg h, beq_false_of_ne (Ne.symm h), resDecode]

/-- A config byte is decoded exactly when some row has it as its pattern. -/
theorem resDecode_isSome_iff (table : List ResRow) (b : Byte) :
    (resDecode table b).isSome ↔ ∃ r ∈ table, b = r.pattern := by
  simp only [resDecode, Option.isSome_map, List.find?_isSome, beq_iff_eq, eq_comm (a := b)]

/-! ### The sensor write -/

/-- With a config byte of the table the outputs are written (44_scratchpad.md R131). -/
theorem runAct_sensorWrite_some {s : State} {r : BitVec 2} (h : resDecode s.cfg.resTable s.sp[4] = some r) :
    runAct .sensorWrite s = (writeSensor r s, none) := by
  simp only [runAct, h]

/-- Any other config byte raises INVALID_RESOLUTION and writes nothing (44_scratchpad.md R131, R133). -/
theorem runAct_sensorWrite_none {s : State} (h : resDecode s.cfg.resTable s.sp[4] = none) :
    runAct .sensorWrite s = (s, some .invalidResolution) := by
  simp only [runAct, h]

/-- The sensor write raises its error exactly when the config byte is not decoded (44_scratchpad.md R133). -/
theorem runAct_sensorWrite_error (s : State) :
    (runAct .sensorWrite s).2 = if (resDecode s.cfg.resTable s.sp[4]).isSome then none else some .invalidResolution := by
  cases h : resDecode s.cfg.resTable s.sp[4] with
  | some r => rw [runAct_sensorWrite_some h]; rfl
  | none => rw [runAct_sensorWrite_none h]; rfl

/-- What the config byte decodes to depends only on what the host sees. -/
theorem resDecode_visible_congr {s t : State} (h : s.visible = t.visible) :
    resDecode s.cfg.resTable s.sp[4] = resDecode t.cfg.resTable t.sp[4] :=
  (congrArg (fun u : State => resDecode u.cfg.resTable u.sp[4]) h :)

/-- Settles O30: the default table row by row, and the sensor write raises where no row has the byte. -/
theorem resolutionDecodesFourPatterns : Obligations.ResolutionDecodesFourPatterns := by
  intro s b htable hbyte
  refine ⟨?code, ?error⟩
  case code => rw [htable, defaultResTable]; simp only [resDecode_cons, resDecode_nil]
  case error =>
    rw [runAct_sensorWrite_error, htable, hbyte]
    simp [resDecode_isSome_iff, defaultResTable]

/-! ### The consumer's temperature -/

/-- With the default table the code 3 stands for 12 bits, whose divisor is 16 (44_scratchpad.md R134). -/
theorem consumerTemp_twelveBits {s : State} {n : Int} (htable : s.cfg.resTable = defaultResTable) (hres : s.res = 3)
    (hraw : s.tempRaw.toInt = n) : consumerTemp s = some ((n : Rat) / 16) := by
  rw [consumerTemp, htable, hres, hraw]
  rfl

/-- Settles O31: the two words as signed numbers, each divided by the divisor of 12 bits. -/
theorem consumerTemperatureExamples : Obligations.ConsumerTemperatureExamples := by
  constructor
  · rw [consumerTemp_twelveBits (n := 1360) rfl rfl rfl]
    norm_num
  · rw [consumerTemp_twelveBits (n := -2) rfl rfl rfl]
    norm_num

/-! ### The scratchpad read -/

/-- `SP_READ` up to its CRC check (44_scratchpad.md R127). -/
def spBeforeCheck (c : Config) : List Seg :=
  resetSeq c ++ (matchSrcs c ++ [ByteSrc.const c.cmdReadScratchpad]).flatMap (wbyte c) ++ [.act .crcClear]
    ++ (List.finRange 9).flatMap fun k => rbyte c ++ [.act (.spStore k)]

/-- `SP_READ`, cut at its CRC check. -/
theorem spRead_cut (c : Config) : spRead c = spBeforeCheck c ++ .act .crcCheck :: [.act .spValid] := by
  rw [spRead_eq, spBeforeCheck, ← List.append_assoc]

/-- The ticks of `SP_READ` when the line is first high on its w-th tick (44_scratchpad.md R127). -/
def spTicks (c : Config) (w : Nat) : Nat := spBase c w + 9 * (8 * c.tRslot)

section
variable {op : BitVec 4} {line : Nat → Bool} {s : State} {w : Nat} {v : Vector Byte 9} (hr : s.cfg.inRange = true)
  (hb : s.busy = true) (hhigh : highAfter line s.cfg.tWaitHighMax w) (hpres : presence s.cfg line w)
  (hv : spReceived s.cfg line w v)

include hr hb hhigh hpres hv

/-- Before its check `SP_READ` has stored the nine bytes received and their CRC, and nothing else the host can see
(44_scratchpad.md R127). -/
theorem runs_spBeforeCheck :
    ∃ s', Runs op (spBeforeCheck s.cfg) line (spTicks s.cfg w) s s' (spWave s w) ∧
      s'.visible = { s with sp := v, crc := crc8 v.toList }.visible := by
  obtain ⟨sh, bc, rb, hrun⟩ := runs_spRead (op := op) hr hb v hhigh hpres hv
  exact ⟨_, hrun, rfl⟩

/-- A residue ends a command that reads the scratchpad with code 4, whatever would follow (44_scratchpad.md R128,
R138). -/
theorem spRead_failsCrc (h0 : crc8 v.toList ≠ 0) (rest : List Seg) :
    EndsIn line (spTicks s.cfg w) (enter op (spRead s.cfg ++ rest) s) (spWave s w)
      (raise .checksumFailed { s with sp := v, crc := crc8 v.toList }) := by
  obtain ⟨s', hrun, hvis⟩ := runs_spBeforeCheck (op := op) hr hb hhigh hpres hv
  have hcrc : s'.crc = crc8 v.toList := congrArg State.crc hvis
  have hcheck := runAct_crcCheck_fail (s := s') (by rw [hcrc]; exact h0)
  have hend := hrun.raises (a := .crcCheck) (by rw [hcheck]) (.act .spValid :: rest)
  rw [hcheck] at hend
  rw [spRead_cut, List.append_assoc]
  exact hend.congr (raise_visible_congr _ hvis)

/-- Without a residue the whole of `SP_READ` runs, and SP_VALID is set (44_scratchpad.md R128). -/
theorem runs_spRead_passes (h0 : crc8 v.toList = 0) :
    ∃ s', Runs op (spRead s.cfg) line (spTicks s.cfg w) s s' (spWave s w) ∧
      s'.visible = { s with sp := v, crc := 0, spValid := true }.visible := by
  obtain ⟨s', hrun, hvis⟩ := runs_spBeforeCheck (op := op) hr hb hhigh hpres hv
  rw [h0] at hvis
  have hcheck : runAct .crcCheck s' = (s', none) := runAct_crcCheck_pass (congrArg State.crc hvis)
  have hchecked := hrun.append_act (a := .crcCheck) (by rw [hcheck])
  rw [hcheck] at hchecked
  have hvalid := hchecked.append_act (a := .spValid) rfl
  rw [List.append_assoc, List.singleton_append, ← spRead_cut] at hvalid
  exact ⟨_, hvalid, congrArg (fun t : State => (runAct .spValid t).1) hvis⟩

/-! ### The ends of the two commands on a bus that answers -/

/-- READ_SCRATCHPAD completes after `SP_READ` (44_scratchpad.md R130). -/
theorem readScratchpad_passes (h0 : crc8 v.toList = 0) :
    EndsIn line (spTicks s.cfg w) (enter op (progReadScratchpad s.cfg) s) (spWave s w)
      (complete { s with sp := v, crc := 0, spValid := true }) := by
  obtain ⟨s', hrun, hvis⟩ := runs_spRead_passes (op := op) hr hb hhigh hpres hv h0
  have hend : EndsIn line _ _ _ _ := hrun.completes
  exact hend.congr (congrArg complete hvis)

/-- READ_SENSOR with a config byte of the table writes the sensor outputs in its last tick (44_scratchpad.md R131). -/
theorem readSensor_passes (h0 : crc8 v.toList = 0) {r : BitVec 2} (hres : resDecode s.cfg.resTable v[4] = some r) :
    EndsIn line (spTicks s.cfg w) (enter op (progReadSensor s.cfg) s) (spWave s w)
      (complete (writeSensor r { s with sp := v, crc := 0, spValid := true })) := by
  obtain ⟨s', hrun, hvis⟩ := runs_spRead_passes (op := op) hr hb hhigh hpres hv h0
  have hwrite := runAct_sensorWrite_some ((resDecode_visible_congr hvis).trans hres)
  have hend : EndsIn line _ _ _ _ := (hrun.append_act (a := .sensorWrite) (by rw [hwrite])).completes
  rw [hwrite] at hend
  exact hend.congr (congrArg (fun t : State => complete (writeSensor r t)) hvis)

/-- READ_SENSOR with any other config byte ends in code 5, after SP_VALID is set (44_scratchpad.md R131, R138). -/
theorem readSensor_failsResolution (h0 : crc8 v.toList = 0) (hres : resDecode s.cfg.resTable v[4] = none) :
    EndsIn line (spTicks s.cfg w) (enter op (progReadSensor s.cfg) s) (spWave s w)
      (raise .invalidResolution { s with sp := v, crc := 0, spValid := true }) := by
  obtain ⟨s', hrun, hvis⟩ := runs_spRead_passes (op := op) hr hb hhigh hpres hv h0
  have hwrite := runAct_sensorWrite_none ((resDecode_visible_congr hvis).trans hres)
  have hend := hrun.raises (a := .sensorWrite) (by rw [hwrite]) []
  rw [hwrite] at hend
  exact hend.congr (raise_visible_congr _ hvis)

end

/-! ### The commands -/

/-- A list that begins with the RESET sequence stands in WAIT_HIGH when it is entered (40_bus_primitives.md R88). -/
theorem enter_resetSeq {op : BitVec 4} {c : Config} (hr : c.inRange = true) (rest : List Seg) (s : State) :
    enter op (resetSeq c ++ rest) s = pos op (resetSeq c ++ rest) 0 s := by
  have hfacts := inRange_facts hr
  have hwait : c.tWaitHighMax ≠ 0 := by omega
  exact enter_timed op (.waitHigh c.tWaitHighMax) _ s hwait

/-- A list that goes on after `SP_READ` begins with the RESET sequence (44_scratchpad.md R127). -/
theorem spRead_append_eq_resetSeq (c : Config) (rest : List Seg) : ∃ more, spRead c ++ rest = resetSeq c ++ more := by
  simp only [spRead, List.append_assoc]
  exact ⟨_, rfl⟩

/-- Settles O28: the reset errors are those of any list that begins with the RESET sequence; after it the check of the
nine bytes decides between completion with SP_VALID and code 4. -/
theorem readScratchpadCommand : Obligations.ReadScratchpadCommand := by
  intro s d hr hb
  obtain ⟨rest, hprog⟩ := spRead_append_eq_resetSeq s.cfg []
  rw [List.append_nil, ← progReadScratchpad] at hprog
  have hfails : resetFails (.readScratchpad d) s (enter 0xD (progReadScratchpad s.cfg) (accepted d clearSpValid s)) := by
    rw [hprog]
    exact resetFails_of (.readScratchpad d) 0xD clearSpValid rest s hr (fun _ => rfl) (fun _ => rfl)
  refine ⟨_, offer_idle _ _ _ _ _ hb, opField_wordOf 0xD d, ?valid, hfails, fun line w v hhigh hpres hv => ?_⟩
  case valid => rw [hprog, enter_resetSeq hr]; rfl
  split
  next h0 => exact readScratchpad_passes (op := 0xD) (s := accepted d clearSpValid s) hr rfl hhigh hpres hv h0
  next h0 =>
    have hend := spRead_failsCrc (op := 0xD) (s := accepted d clearSpValid s) hr rfl hhigh hpres hv h0 []
    rw [List.append_nil] at hend
    exact hend

/-- Settles O29: the reset errors are those of any list that begins with the RESET sequence; after it the check of the
nine bytes comes first, and only when it passes does the config byte decide. -/
theorem readSensorCommand : Obligations.ReadSensorCommand := by
  intro s d hr hb
  obtain ⟨rest, hprog⟩ := spRead_append_eq_resetSeq s.cfg [.act .sensorWrite]
  rw [← progReadSensor] at hprog
  have hfails : resetFails (.readSensor d) s (enter 0xE (progReadSensor s.cfg) (accepted d clearSensorValid s)) := by
    rw [hprog]
    exact resetFails_of (.readSensor d) 0xE clearSensorValid rest s hr (fun _ => rfl) (fun _ => rfl)
  refine ⟨_, offer_idle _ _ _ _ _ hb, opField_wordOf 0xE d, ?spValid, ?sensorValid, hfails,
    fun line w v hhigh hpres hv => ?_⟩
  case spValid => rw [hprog, enter_resetSeq hr]; rfl
  case sensorValid => rw [hprog, enter_resetSeq hr]; rfl
  split
  next h0 =>
    split
    next r hres =>
      exact readSensor_passes (op := 0xE) (s := accepted d clearSensorValid s) hr rfl hhigh hpres hv h0 hres
    next hres =>
      exact readSensor_failsResolution (op := 0xE) (s := accepted d clearSensorValid s) hr rfl hhigh hpres hv h0 hres
  next h0 =>
    exact spRead_failsCrc (op := 0xE) (s := accepted d clearSensorValid s) hr rfl hhigh hpres hv h0 [.act .sensorWrite]

end Sys2Proof.Machine

/-! PROOFS. Commands, errors and the interrupt (60_exceptions.md): acceptance and refusal of a word, the released last tick,
the bound on the ticks of a command, and the interrupt at its end. -/
namespace Sys2Proof.Machine

open Sys2Proof.Laws

/-! ### Entering a list -/

/-- Induction along `enter`: at the head of the list a segment of no ticks is skipped or SEQ stops in a segment, and an
assignment is passed or raises; the empty list completes. -/
theorem enter_induction {op : BitVec 4} {C : List Seg → State → Prop}
    (complete : ∀ s, C [] s)
    (skip : ∀ g rest s, g.timed = true → segTicks s g = 0 → enter op (g :: rest) s = enter op rest s → C rest s →
      C (g :: rest) s)
    (stop : ∀ g rest s, segTicks s g ≠ 0 → enter op (g :: rest) s = pos op (g :: rest) 0 s → C (g :: rest) s)
    (pass : ∀ a rest s, (runAct a s).2 = none → enter op (.act a :: rest) s = enter op rest (runAct a s).1 →
      C rest (runAct a s).1 → C (.act a :: rest) s)
    (fail : ∀ a rest s e, (runAct a s).2 = some e →
      enter op (.act a :: rest) s = raise e { (runAct a s).1 with waitCnt := 0 } → C (.act a :: rest) s)
    (p : List Seg) (s : State) : C p s := by
  induction p generalizing s with
  | nil => exact complete s
  | cons g rest ih =>
    by_cases ht : g.timed = true
    · by_cases hz : segTicks s g = 0
      · exact skip g rest s ht hz (enter_skip op g rest s ht hz) (ih s)
      · exact stop g rest s hz (enter_timed op g rest s hz)
    · obtain ⟨a, rfl⟩ := Seg.exists_act_of_not_timed ht
      cases hr : (runAct a s).2 with
      | none => exact pass a rest s hr (enter_act op a rest s hr) (ih _)
      | some e => exact fail a rest s e hr (enter_act_raise op a rest s e hr)

/-! ### Refusal while BUSY -/

/-- While BUSY every command is refused (60_exceptions.md R147). -/
theorem exec_busy (i : Instr) {s : State} (h : s.busy = true) : exec i s = .next (reject s) := by
  rw [exec_eq, if_pos h]

/-- While BUSY every word written to CMD is refused, legal or not (60_exceptions.md R147). -/
theorem writeCmd_busy (w : Word) {s : State} (h : s.busy = true) : writeCmd w s = .next (reject s) := by
  cases hdec : decode w with
  | ok i => rw [writeCmd_of_decode hdec, exec_busy i h]
  | error e => rw [writeCmd_of_decode_error hdec, offerIllegal_busy _ h]

/-- Settles O9: `exec_busy` for the commands, `writeCmd_busy` for the words. -/
theorem commandWhileBusyOnlySetsRej : Obligations.CommandWhileBusyOnlySetsRej :=
  fun _ hb => ⟨fun i => exec_busy i hb, fun hr w => (hostWrite_cmd w hr rfl).trans (writeCmd_busy w hb)⟩

/-! ### Acceptance while idle -/

/-- While BUSY = 0 every command is accepted, and SEQ enters its list (60_exceptions.md R146). -/
theorem exec_idle (i : Instr) {s : State} (h : s.busy = false) :
    exec i s = .next (enter i.opcode (progOf s.cfg i) (accepted i.data (acceptClears i) s)) := by
  rw [exec_eq, if_neg (by simp [h])]
  rfl

/-- The DATA byte of a legal word is that of its command. -/
theorem dataField_of_decode {w : Word} {i : Instr} (h : decode w = .ok i) : dataField w = i.data := by
  rw [← encode_of_decode h]
  exact (EncodeFields.of_wordOf i).2.2.1

/-- An accepted command is in the state between its segments that the invariant speaks of. -/
theorem inCommand_accepted (i : Instr) {s : State} (hr : s.cfg.inRange = true) :
    InCommand (accepted i.data (acceptClears i) s) := by
  obtain ⟨hcfg, hdone, herr⟩ := acceptClears_keeps i (acceptFlags i.data s)
  exact ⟨(congrArg Config.inRange hcfg).trans hr, rfl, hdone, herr⟩

/-- Entering the list `p` stops in a segment before any tick, and writes SHIFT and BITCNT at most. -/
def Begins (op : BitVec 4) (p : List Seg) (s : State) : Prop :=
  ∃ q sh bc, enter op p s = pos op q 0 { s with shift := sh, bitCnt := bc }

theorem begins_of_ticks {op : BitVec 4} {g : Seg} {rest : List Seg} {s : State} (h : segTicks s g ≠ 0) :
    Begins op (g :: rest) s := ⟨g :: rest, s.shift, s.bitCnt, enter_timed op g rest s h⟩

/-- A byte begins with the low time of its first slot, once SHIFT is loaded or cleared (41_bytes_and_select.md R95). -/
theorem begins_of_act {op : BitVec 4} {a : Act} {g : Seg} {rest : List Seg} {s : State} {sh : Byte} {bc : Fin 9}
    (ha : runAct a s = ({ s with shift := sh, bitCnt := bc }, none))
    (h : segTicks { s with shift := sh, bitCnt := bc } g ≠ 0) : Begins op (.act a :: g :: rest) s := by
  refine ⟨g :: rest, sh, bc, ?_⟩
  rw [enter_act op a _ s (by rw [ha]), ha, enter_timed op g rest _ h]

theorem slotLowTicks_ne_zero {c : Config} (h : c.inRange = true) (b : Bool) : slotLowTicks c b ≠ 0 := by
  have hfacts := inRange_facts h
  cases b with
  | false => exact (by omega : c.tW0l ≠ 0)
  | true => exact (by omega : c.tW1l ≠ 0)

/-- The list of every command begins: with WAIT_HIGH, with the low time of a slot, or with one released tick. -/
theorem begins_progOf (op : BitVec 4) (i : Instr) {c : Config} (hr : c.inRange = true) {s : State} (hc : s.cfg = c) :
    Begins op (progOf c i) s := by
  subst hc
  have hfacts := inRange_facts hr
  have hwait : s.cfg.tWaitHighMax ≠ 0 := by omega
  have hread : s.cfg.tRl ≠ 0 := by omega
  have hwrite := slotLowTicks_ne_zero hr
  cases i with
  | writeBit d => exact begins_of_ticks (hwrite _)
  | readBit d => exact begins_of_ticks (g := .low s.cfg.tRl) hread
  | writeByte d => exact begins_of_act rfl (hwrite _)
  | readByte d => exact begins_of_act (g := .low s.cfg.tRl) rfl hread
  | matchAddress d => exact begins_of_act rfl (hwrite _)
  | crcClear d => exact begins_of_ticks Nat.one_ne_zero
  | crcFeed d => exact begins_of_ticks Nat.one_ne_zero
  | crcCheck d => exact begins_of_ticks Nat.one_ne_zero
  | checkAddr d => exact begins_of_ticks Nat.one_ne_zero
  | _ => exact begins_of_ticks (g := .waitHigh s.cfg.tWaitHighMax) hwait

/-- Where an accepted command begins, a host sees the flags of acceptance, CMD_DATA, and the command's own clears
(60_exceptions.md R146). -/
theorem pos_accepted_visible (i : Instr) (d : Byte) (op : BitVec 4) (q : List Seg) (sh : Byte) (bc : Fin 9)
    (s : State) :
    (pos op q 0 { accepted d (acceptClears i) s with shift := sh, bitCnt := bc }).visible =
      { acceptClears i s with busy := true, done := false, err := .none, rej := false, cmdData := d,
                              seq := .running op q }.visible := by
  cases i <;> rfl

/-- Settles O10: a legal word enters the list of its command, which begins without a tick (`begins_progOf`) in a
position the invariant allows (`InCommand.enter`); an illegal one raises code 7. -/
theorem acceptanceOfEveryWord : Obligations.AcceptanceOfEveryWord := by
  intro s w hr hb hn
  rw [hostWrite_cmd w hn rfl]
  cases hdec : decode w with
  | ok i =>
    have hinv := (inCommand_accepted i hr).enter (planOk_prog s.cfg i hr)
    have hcfg : (accepted i.data (acceptClears i) s).cfg = s.cfg := (acceptClears_keeps i _).1
    obtain ⟨q, sh, bc, hbegin⟩ := begins_progOf i.opcode i hr hcfg
    rw [hbegin] at hinv
    rw [writeCmd_of_decode hdec, exec_idle i hb, hbegin, dataField_of_decode hdec]
    exact ⟨_, rfl, rfl, hinv.position, rfl, pos_accepted_visible ..⟩
  | error e =>
    rw [writeCmd_of_decode_error hdec, offerIllegal_idle _ hb]
    exact ⟨_, rfl, rfl⟩

/-! ### A released last tick -/

/-- Only the checks raise (60_exceptions.md R148). -/
theorem runAct_error_of_not_actRaises {a : Act} (h : actRaises a = false) (s : State) : (runAct a s).2 = none := by
  cases a with
  | crcCheck => cases h
  | searchDecide => cases h
  | sensorWrite => cases h
  | _ => rfl

/-- A skipped segment leaves the tick before it the last one. -/
theorem planOk_tail_of_noTicks {op : BitVec 4} {g : Seg} {rest : List Seg} {s : State} (ht : g.timed = true)
    (hz : segTicks s g = 0) (h : planOk op true (g :: rest) = true) : planOk op true rest = true := by
  cases g with
  | low n => exact h
  | slotLow src => exact h
  | slotRel src => exact h
  | act a => cases ht
  | _ n => obtain rfl : n = 0 := hz; exact h

/-- After a driven tick the rest of an allowed list does not end: a released tick is still to come
(40_bus_primitives.md R92, 60_exceptions.md R148). -/
theorem enter_busy_of_driven {op : BitVec 4} {p : List Seg} (hp : planOk op true p = true) {s : State}
    (hb : s.busy = true) : (enter op p s).busy = true := by
  induction p, s using enter_induction (op := op) with
  | complete s => cases hp
  | skip g rest s ht hz heq ih => exact heq ▸ ih (planOk_tail_of_noTicks ht hz hp) hb
  | stop g rest s hz heq => exact heq ▸ hb
  | pass a rest s hr heq ih =>
    rw [planOk, Bool.and_eq_true] at hp
    exact heq ▸ ih hp.2 ((runAct_busy a s).trans hb)
  | fail a rest s e hr heq =>
    simp only [planOk, Bool.and_eq_true, Bool.not_true, Bool.or_false, Bool.not_eq_true'] at hp
    obtain ⟨⟨⟨-, hraises⟩, -⟩, -⟩ := hp
    cases hr.symm.trans (runAct_error_of_not_actRaises hraises s)

theorem pos_self {s : State} {op : BitVec 4} {p : List Seg} (h : s.seq = .running op p) : pos op p s.waitCnt s = s := by
  rw [pos, ← h]

/-- A list whose current segment is driven is allowed after a driven tick once that segment is over. -/
theorem planOk_tail_of_driven {op : BitVec 4} {d : Bool} {g : Seg} {rest : List Seg} (hg : g.driven = true)
    (h : planOk op d (g :: rest) = true) : planOk op true rest = true := by
  cases g with
  | low n => exact h
  | slotLow src => exact h
  | _ => cases hg

/-- Settles O46: a driven segment either has a tick left or gives way to a list that does not end at once
(`enter_busy_of_driven`). -/
theorem noCommandEndsOnDrivenTick : Obligations.NoCommandEndsOnDrivenTick := by
  intro s line h hdrive
  obtain ⟨op, g, rest, hs, hg⟩ := seq_of_drive hdrive
  have hb := h.busy_of_running hs
  obtain ⟨g', rest', heq, -, hleft, hp⟩ := h.running hs
  obtain ⟨rfl, rfl⟩ := List.cons.inj heq
  have htick := tick_plain op g rest s.waitCnt s line (Seg.plain_of_driven hg) (Nat.zero_lt_of_lt hleft)
  rw [pos_self hs] at htick
  rw [htick]
  split
  · rw [pos_busy, hb]
  · exact enter_busy_of_driven (planOk_tail_of_driven hg hp) hb

/-! ### The bound on the ticks of a command -/

/-- An upper bound of the ticks of a list. -/
def listBudget (c : Config) (p : List Seg) : Nat := (p.map (segBudget c)).sum

theorem listBudget_cons (c : Config) (g : Seg) (rest : List Seg) :
    listBudget c (g :: rest) = segBudget c g + listBudget c rest := List.sum_cons

theorem ticksLeft_of_running {s : State} {op : BitVec 4} {p : List Seg} (h : s.seq = .running op p) :
    ticksLeft s = listBudget s.cfg p - s.waitCnt := by
  simp only [ticksLeft, h, listBudget]

/-- A list just entered has at most its own budget left. -/
theorem ticksLeft_enter_le (op : BitVec 4) (p : List Seg) (s : State) :
    ticksLeft (enter op p s) ≤ listBudget s.cfg p := by
  induction p, s using enter_induction (op := op) with
  | complete s => exact Nat.zero_le _
  | skip g rest s ht hz heq ih =>
    rw [heq, listBudget_cons]
    exact ih.trans (Nat.le_add_left ..)
  | stop g rest s hz heq =>
    rw [heq, ticksLeft_of_running (pos_seq ..)]
    exact Nat.sub_le ..
  | pass a rest s hr heq ih =>
    rw [runAct_cfg] at ih
    rw [heq, listBudget_cons]
    exact ih.trans (Nat.le_add_left ..)
  | fail a rest s e hr heq =>
    rw [heq]
    exact Nat.zero_le _

/-- Within a segment the bound still holds the ticks that are left of it. -/
theorem ticksLeft_of_inSegment {s : State} {op : BitVec 4} {g : Seg} {rest : List Seg}
    (hs : s.seq = .running op (g :: rest)) (hleft : s.waitCnt < segTicks s g) :
    listBudget s.cfg rest < ticksLeft s := by
  have hbudget := segTicks_le s g
  rw [ticksLeft_of_running hs, listBudget_cons]
  omega

theorem sampleLine_cfg (g : Seg) (line : Bool) (s : State) : (sampleLine g line s).cfg = s.cfg :=
  (congrArg State.cfg (sampleLine_keeps g line s) :)

theorem sampleLine_waitCnt (g : Seg) (line : Bool) (s : State) : (sampleLine g line s).waitCnt = s.waitCnt :=
  (congrArg State.waitCnt (sampleLine_keeps g line s) :)

/-- What a tick in the current segment can do: go on to the rest of the list, end the command with an error, or
count. -/
theorem tickSeg_of_running {s : State} {op : BitVec 4} {g : Seg} {rest : List Seg}
    (hs : s.seq = .running op (g :: rest)) (line : Bool) :
    tickSeg op g rest line s = enter op rest (sampleLine g line s) ∨
    (∃ e, tickSeg op g rest line s = raise e (sampleLine g line s)) ∨
    tickSeg op g rest line s = pos op (g :: rest) (s.waitCnt + 1) (sampleLine g line s) := by
  simp only [tickSeg]
  split
  · split
    · exact .inl rfl
    · exact .inr (.inl ⟨_, rfl⟩)
  · rw [pos, ← hs, ← sampleLine_seq g line s, ← sampleLine_waitCnt g line s]
    exact .inr (.inr rfl)

/-- A tick of a segment with a tick left uses up at least one tick of the bound. -/
theorem ticksLeft_tickSeg_lt {s : State} {op : BitVec 4} {g : Seg} {rest : List Seg}
    (hs : s.seq = .running op (g :: rest)) (hleft : s.waitCnt < segTicks s g) (line : Bool) :
    ticksLeft (tickSeg op g rest line s) < ticksLeft s := by
  have hrest := ticksLeft_of_inSegment hs hleft
  obtain heq | ⟨e, heq⟩ | heq := tickSeg_of_running hs line <;> rw [heq]
  · exact (ticksLeft_enter_le op rest _).trans_lt (by rwa [sampleLine_cfg])
  · exact Nat.zero_lt_of_lt hrest
  · rw [ticksLeft_of_running hs] at hrest ⊢
    rw [ticksLeft_of_running (pos_seq ..), pos_cfg, pos_waitCnt, sampleLine_cfg]
    omega

/-- Under the invariant a tick of a running command uses up at least one tick of the bound. -/
theorem BlockInv.ticksLeft_tick_lt {s : State} (h : BlockInv s) (hb : s.busy = true) (line : Bool) :
    ticksLeft (Machine.tick s line) < ticksLeft s := by
  cases hs : s.seq with
  | idle => exact absurd hs (h.busy_iff.1 hb)
  | running op p =>
    obtain ⟨g, rest, rfl, ht, hleft, -⟩ := h.running hs
    rw [tick_running op g rest s line ht hs]
    exact ticksLeft_tickSeg_lt hs hleft line

/-- A run of ticks keeps the invariant. -/
theorem BlockInv.ticks {s : State} (h : BlockInv s) (line : Nat → Bool) (n : Nat) : BlockInv (ticks line n s) := by
  induction n with
  | zero => exact h
  | succ n ih => exact ih.tick _

/-- While a command runs, the ticks done and the bound of those left add up to no more than the bound at the start. -/
theorem BlockInv.ticksLeft_ticks {s : State} (h : BlockInv s) (line : Nat → Bool) (n : Nat)
    (hb : (Machine.ticks line n s).busy = true) : n + ticksLeft (Machine.ticks line n s) ≤ ticksLeft s := by
  induction n with
  | zero => exact (Nat.zero_add _).le
  | succ n ih =>
    have hn := h.ticks line n
    have hbusy : (Machine.ticks line n s).busy = true := by
      by_contra hidle
      rw [Bool.not_eq_true] at hidle
      rw [ticks_succ, (idleReleasesTheLine _ (line n) hn hidle).2, hidle] at hb
      cases hb
    have hlt := hn.ticksLeft_tick_lt hbusy (line n)
    have hsum := ih hbusy
    rw [ticks_succ]
    omega

/-- Settles O50: a command still running after `ticksLeft` ticks would have a next tick, which the bound, used up, does
not allow. -/
theorem everyCommandEnds : Obligations.EveryCommandEnds := by
  intro s line h
  by_contra hbusy
  rw [Bool.not_eq_false] at hbusy
  have hsum := h.ticksLeft_ticks line _ hbusy
  have hlt := (h.ticks line _).ticksLeft_tick_lt hbusy true
  omega

/-! ### The end of a command and the interrupt -/

/-- A list that ends as it is entered sets DONE, with or without an error (60_exceptions.md R148, R149). -/
theorem enter_done_of_ended {op : BitVec 4} {p : List Seg} {s : State} (hb : s.busy = true)
    (hend : (enter op p s).busy = false) : (enter op p s).done = true := by
  induction p, s using enter_induction (op := op) with
  | complete s => rfl
  | skip g rest s ht hz heq ih =>
    rw [heq] at hend ⊢
    exact ih hb hend
  | stop g rest s hz heq =>
    rw [heq, pos_busy, hb] at hend
    cases hend
  | pass a rest s hr heq ih =>
    rw [heq] at hend ⊢
    exact ih ((runAct_busy a s).trans hb) hend
  | fail a rest s e hr heq => rw [heq, raise_done]

theorem sampleLine_busy (g : Seg) (line : Bool) (s : State) : (sampleLine g line s).busy = s.busy :=
  (congrArg State.busy (sampleLine_keeps g line s) :)

/-- A tick enters the list where SEQ stands in a position no tick is spent in, and elsewhere is a tick of the current
segment; the list alone decides which. -/
theorem tick_at (op : BitVec 4) (p : List Seg) :
    (∀ s line, s.seq = .running op p → tick s line = enter op p s) ∨
    ∃ g rest, p = g :: rest ∧ ∀ s line, s.seq = .running op p → tick s line = tickSeg op g rest line s := by
  cases p with
  | nil => exact .inl fun s line hs => by simp only [tick, hs]
  | cons g rest =>
    by_cases ht : g.timed = true
    · exact .inr ⟨g, rest, rfl, fun s line hs => tick_running op g rest s line ht hs⟩
    · obtain ⟨a, rfl⟩ := Seg.exists_act_of_not_timed ht
      exact .inl fun s line hs => by simp only [tick, hs]

/-- The tick that ends a command sets DONE, with or without an error (60_exceptions.md R148, R149). -/
theorem tick_done_of_ended {s : State} {line : Bool} (hb : s.busy = true) (hend : (tick s line).busy = false) :
    (tick s line).done = true := by
  cases hs : s.seq with
  | idle =>
    rw [tick_of_idle hs, hb] at hend
    cases hend
  | running op p =>
    obtain htick | ⟨g, rest, rfl, htick⟩ := tick_at op p <;> rw [htick s line hs] at hend ⊢
    · exact enter_done_of_ended hb hend
    · have hsample := (sampleLine_busy g line s).trans hb
      obtain heq | ⟨e, heq⟩ | heq := tickSeg_of_running hs line <;> rw [heq] at hend ⊢
      · exact enter_done_of_ended hsample hend
      · exact raise_done _ e
      · exact absurd (hend.symm.trans hsample) Bool.false_ne_true

/-- Settles O40: the tick that ends a command sets DONE (`tick_done_of_ended`), and under the invariant DONE is 0 while
BUSY; the words are those of `acceptanceOfEveryWord`, and STATUS and CTRL write one factor of `irq` each. -/
theorem interruptFollowsDoneAndEnable : Obligations.InterruptFollowsDoneAndEnable := by
  intro s
  refine ⟨rfl, fun line hb hend => ?ends, fun line h hb => ?runs, fun hn hr hb w => ?accepts,
    fun hn v => ⟨⟨_, hostWrite_status v hn rfl, ?status⟩, ⟨_, hostWrite_ctrl v hn rfl, rfl⟩⟩⟩
  case ends =>
    obtain ⟨-, -, hie, -⟩ := tick_keeps s line
    rw [irq, tick_done_of_ended hb hend, hie, Bool.true_and]
  case runs => rw [irq, ((h.tick line).quiet hb).1, Bool.false_and]
  case accepts =>
    obtain ⟨t, hwrite, hword⟩ := acceptanceOfEveryWord s w hr hb hn
    refine ⟨t, hwrite, ?_⟩
    cases hdec : decode w with
    | ok i =>
      simp only [hdec] at hword
      obtain ⟨-, -, -, hvis⟩ := hword
      have hdone : t.done = false := congrArg State.done hvis
      rw [irq, hdone, Bool.false_and]
    | error e =>
      simp only [hdec] at hword
      have hdone : t.done = true := (congrArg State.done hword :)
      have hie : t.ie = s.ie := (congrArg State.ie hword :)
      rw [irq, hdone, hie, Bool.true_and]
  case status => rw [writeStatus_eq, irq]

/-! ### A write to CMD and the completing tick -/

theorem runAct_reject (a : Act) (s : State) : runAct a (reject s) = (reject (runAct a s).1, (runAct a s).2) := by
  cases a with
  | searchDecide =>
    simp only [runAct, reject]
    cases pairDecide s.cfg.searchPairMap s.trueBit s.rdBit <;> rfl
  | sensorWrite =>
    simp only [runAct, reject]
    cases resDecode s.cfg.resTable s.sp[4] <;> rfl
  | _ => rfl

theorem segTicks_reject (s : State) (g : Seg) : segTicks (reject s) g = segTicks s g := by
  cases g <;> rfl

/-- A list is entered the same way whatever REJ is. -/
theorem enter_reject (op : BitVec 4) (p : List Seg) (s : State) : enter op p (reject s) = reject (enter op p s) := by
  induction p, s using enter_induction (op := op) with
  | complete s => rfl
  | skip g rest s ht hz heq ih => rw [heq, enter_skip op g rest _ ht (by rwa [segTicks_reject]), ih]
  | stop g rest s hz heq =>
    rw [heq, enter_timed op g rest _ (by rwa [segTicks_reject])]
    rfl
  | pass a rest s hr heq ih => rw [heq, enter_act op a rest _ (by rwa [runAct_reject]), runAct_reject, ih]
  | fail a rest s e hr heq =>
    rw [heq, enter_act_raise op a rest _ e (by rwa [runAct_reject]), runAct_reject]
    rfl

theorem sampleLine_reject (g : Seg) (line : Bool) (s : State) :
    sampleLine g line (reject s) = reject (sampleLine g line s) := by
  cases g with
  | relS n =>
    simp only [sampleLine, reject_waitCnt, apply_ite reject]
    rfl
  | _ => rfl

theorem segEnds_reject (g : Seg) (line : Bool) (s : State) : segEnds g line (reject s) = segEnds g line s := by
  cases g <;> rfl

theorem segError_reject (g : Seg) (line : Bool) (s : State) : segError g line (reject s) = segError g line s := by
  cases g <;> rfl

theorem tickSeg_reject (op : BitVec 4) (g : Seg) (rest : List Seg) (line : Bool) (s : State) :
    tickSeg op g rest line (reject s) = reject (tickSeg op g rest line s) := by
  simp only [tickSeg, sampleLine_reject, segEnds_reject, segError_reject]
  split
  · split
    · exact enter_reject op rest _
    · rfl
  · rfl

/-- A refused word does not affect the running command: its tick is the same whatever REJ is (60_exceptions.md R147). -/
theorem tick_reject (s : State) (line : Bool) : tick (reject s) line = reject (tick s line) := by
  cases hs : s.seq with
  | idle => rw [tick_of_idle hs, tick_of_idle (s := reject s) hs]
  | running op p =>
    obtain htick | ⟨g, rest, rfl, htick⟩ := tick_at op p <;> rw [htick s line hs, htick (reject s) line hs]
    · exact enter_reject op p s
    · exact tickSeg_reject op g rest line s

/-- An accepted command has REJ = 0 and its byte in CMD_DATA (60_exceptions.md R146). -/
theorem accepted_flags (i : Instr) (d : Byte) (s : State) :
    (accepted d (acceptClears i) s).rej = false ∧ (accepted d (acceptClears i) s).cmdData = d := by
  cases i <;> exact ⟨rfl, rfl⟩

/-- Settles O52: before the tick the command is refused, which the tick does not notice (`tick_reject`); after it the
command is accepted, and entering its list writes neither REJ nor CMD_DATA. -/
theorem raceOfCommandWriteAndCompletingTick : Obligations.RaceOfCommandWriteAndCompletingTick := by
  intro s line i hb hend
  have hafter : tick { s with rej := true } line = reject (tick s line) := tick_reject s line
  obtain ⟨hrej, hdata, -⟩ := enter_keeps i.opcode (progOf (tick s line).cfg i)
    (accepted i.data (acceptClears i) (tick s line))
  rw [hafter]
  obtain ⟨hrej', hdata'⟩ := accepted_flags i i.data (tick s line)
  exact ⟨exec_busy i hb, hend, rfl, _, exec_idle i hend, hrej.trans hrej', hdata.trans hdata'⟩

end Sys2Proof.Machine

/-! PROOFS. Reset and the host's duties (70_reset_and_hazards.md): the reset state, the block held in reset, the default
lengths, and that a host which waits for BUSY = 0 is never refused. -/
namespace Sys2Proof.Machine

/-! ### Reset -/

/-- After a reset the line is released (70_reset_and_hazards.md R160). -/
@[simp] theorem drive_resetRegs (s : State) : drive (resetRegs s) = false := rfl

/-- After a reset there is no interrupt. -/
@[simp] theorem irq_resetRegs (s : State) : irq (resetRegs s) = false := rfl

/-- In the reset state every register word reads 0 (70_reset_and_hazards.md R161). -/
theorem regValue_reset (r : Reg) : regValue State.reset r = 0 := by
  cases r <;> decide

/-- The read values do not depend on what a reset keeps, so they are those of the reset state. -/
@[simp] theorem regValue_resetRegs (s : State) (r : Reg) : regValue (resetRegs s) r = 0 :=
  calc regValue (resetRegs s) r = regValue State.reset r := by cases r <;> rfl
    _ = 0 := regValue_reset r

/-- Settles O41: the step is `hardReset`, and each register is the one of `State.reset`. -/
theorem hardwareResetFromEveryState : Obligations.HardwareResetFromEveryState := by
  intro s rest hev
  refine ⟨hardReset { s with events := rest }, step_of_events_cons hev, ?_⟩
  simp [hardReset, State.reset]

/-- While `rst_n` = 0 a rising edge of `clk` resets the block (70_reset_and_hazards.md R160). -/
theorem clockEdge_inReset (line : Bool) {s : State} (hr : s.rstN = false) : clockEdge line s = resetRegs s := by
  rw [clockEdge, if_neg (by simp [hr])]

/-- While `rst_n` = 0 a host read gives 0, even of a result register while BUSY. -/
theorem hostRead_inReset (off : BitVec 6) {s : State} (hr : s.rstN = false) :
    hostRead off s = { s with hostRdata := 0 } := by
  rw [hostRead, if_pos (by simp [hr])]

/-- Settles O42: the edge is a reset that leaves the pin low, and both accesses look at the pin first. -/
theorem heldInReset : Obligations.HeldInReset := by
  intro s off v line hr
  refine ⟨?edge, hostWrite_inReset off v hr, hostRead_inReset off hr⟩
  case edge => rw [clockEdge_inReset line hr, resetRegs, hr]

/-- Settles O47: the default parameters are in range, and SEQ is idle with BUSY, DONE and ERR at 0. -/
theorem resetMeetsTheInvariant : Obligations.ResetMeetsTheInvariant where
  params := by decide
  busy_iff := by decide
  quiet := by decide
  noFamilyCode := by decide
  position := trivial

/-! ### REJ under the duty to wait -/

/-- A clock edge never sets REJ, and clears it only in reset. -/
theorem clockEdge_rej (line : Bool) (s : State) : (clockEdge line s).rej = (s.rej && s.rstN) := by
  cases hr : s.rstN with
  | false => rw [clockEdge_inReset line hr, Bool.and_false, resetRegs_rej, State.reset]
  | true =>
    rw [Bool.and_true]
    by_cases h : s.cfg.clkPerUs ≤ s.presc + 1
    · rw [clockEdge_ticks line hr h]
      exact (tick_keeps { s with presc := 0 } line).1
    · rw [clockEdge_counts line hr (by omega)]

/-- A host read never sets REJ, not even one that draws a free value. -/
theorem hostRead_rej (off : BitVec 6) (s : State) : (hostRead off s).rej = s.rej := by
  unfold hostRead
  split
  · rfl
  · split <;> rfl

/-- Every word written to CMD while BUSY = 0 is accepted, so it leaves REJ = 0 (60_exceptions.md R146). -/
theorem writeCmd_rej_of_idle (w : Word) {s : State} (hb : s.busy = false) :
    ∃ t, writeCmd w s = .next t ∧ t.rej = false := by
  cases hdec : decode w with
  | ok i =>
    obtain ⟨hrej, -⟩ := enter_keeps i.opcode (progOf s.cfg i) (accepted i.data (acceptClears i) s)
    obtain ⟨haccepted, -⟩ := accepted_flags i i.data s
    exact ⟨_, (writeCmd_of_decode hdec s).trans (exec_idle i hb), hrej.trans haccepted⟩
  | error e => exact ⟨_, writeCmd_of_decode_error hdec s, by rw [offerIllegal_idle _ hb]; rfl⟩

/-- A host that waits writes CMD and ROM_ADDR only while BUSY = 0 (70_reset_and_hazards.md R169). -/
theorem idle_of_respectsWait {s : State} {off : BitVec 6} {v : Word} (hw : respectsWait s (.hostWrite off v) = true)
    (ho : regOf off = .cmd ∨ regOf off = .romAddrLo ∨ regOf off = .romAddrHi) : s.busy = false := by
  obtain ho | ho | ho := ho <;> simpa only [respectsWait, ho, Bool.not_eq_true'] using hw

/-- A host write that respects the duty to wait leaves REJ at 0. -/
theorem hostWrite_rej_of_respectsWait {s : State} {off : BitVec 6} {v : Word}
    (hw : respectsWait s (.hostWrite off v) = true) (hrej : s.rej = false) :
    ∃ t, hostWrite off v s = .next t ∧ t.rej = false := by
  cases hr : s.rstN with
  | false => exact ⟨s, hostWrite_inReset off v hr, hrej⟩
  | true =>
    have hidle := idle_of_respectsWait hw
    cases ho : regOf off with
    | cmd =>
      rw [hostWrite_cmd v hr ho]
      exact writeCmd_rej_of_idle v (hidle (.inl ho))
    | status => exact ⟨_, hostWrite_status v hr ho, by rw [writeStatus_eq]; exact hrej⟩
    | ctrl => exact ⟨_, hostWrite_ctrl v hr ho, hrej⟩
    | romAddrLo => exact ⟨_, hostWrite_romAddrLo v hr ho, by rw [writeRomLo_idle v (hidle (.inr (.inl ho)))]; exact hrej⟩
    | romAddrHi => exact ⟨_, hostWrite_romAddrHi v hr ho, by rw [writeRomHi_idle v (hidle (.inr (.inr ho)))]; exact hrej⟩
    | _ => exact ⟨s, hostWrite_ignored v s (by simp [ho]), hrej⟩

/-- No input that respects the duty to wait sets REJ (10_state.md R28). -/
theorem handle_rej_of_respectsWait {s s' : State} {e : Event} (hw : respectsWait s e = true) (hrej : s.rej = false)
    (hs : handle e s = .next s') : s'.rej = false := by
  cases e with
  | clock line => cases hs; rw [clockEdge_rej, hrej, Bool.false_and]
  | hostWrite off v =>
    obtain ⟨t, hwrite, hrej'⟩ := hostWrite_rej_of_respectsWait hw hrej
    cases hwrite.symm.trans hs
    exact hrej'
  | hostRead off => cases hs; exact (hostRead_rej off s).trans hrej
  | hostNarrow off bytes => cases hw
  | rstPin level => cases hs; exact hrej
  | hardReset => cases hs; rfl

/-- Settles O51: the step handles its oldest input, and `handle_rej_of_respectsWait` goes through the inputs; a write to
CMD or ROM_ADDR comes while BUSY = 0, when it is not refused. -/
theorem waitingHostIsNeverRejected : Obligations.WaitingHostIsNeverRejected := by
  intro s s' e rest hev hw hrej hs
  rw [step_of_events_cons hev] at hs
  exact handle_rej_of_respectsWait (s := { s with events := rest }) hw hrej hs

/-! ### The default lengths -/

theorem slotTicks_default : slotTicks defaultConfig = 82 := rfl

theorem resetTicks_default (w : Nat) : resetTicks defaultConfig w = w + 1008 := Nat.add_assoc w 504 504

theorem matchTicks_default : matchTicks defaultConfig = 5904 := rfl

theorem searchBitTicks_default : searchBitTicks defaultConfig = 222 := rfl

theorem searchBase_default (w : Nat) : searchBase defaultConfig w = w + 1664 := by
  rw [searchBase, resetTicks_default, slotTicks_default]

theorem spBase_default (w : Nat) : spBase defaultConfig w = w + 7568 := by
  rw [spBase, resetTicks_default, matchTicks_default, slotTicks_default]

/-- A list of assignments takes no tick: entering it ends the command, with or without an error. -/
theorem enter_acts_busy (op : BitVec 4) (acts : List Act) (s : State) : (enter op (acts.map .act) s).busy = false := by
  induction acts generalizing s with
  | nil => rfl
  | cons a acts ih =>
    rw [List.map_cons]
    cases hr : (runAct a s).2 with
    | none => rw [enter_act op a _ s hr, ih]
    | some e => rw [enter_act_raise op a _ s e hr, raise_busy]

/-- A command of one released tick and assignments is accepted while BUSY = 0 and ends with its first tick. -/
theorem offer_endsWithFirstTick (op : BitVec 4) (d : Byte) (acts : List Act) (line : Bool) {s : State}
    (hb : s.busy = false) :
    ∃ t, offer op d id (.rel 1 :: acts.map .act) s = .next t ∧ t.busy = true ∧ (tick t line).busy = false := by
  obtain ⟨t, hoffer, hbusy, -, htick⟩ := offer_oneReleasedTick op d (acts.map .act) hb
  exact ⟨t, hoffer, hbusy, by rw [htick, enter_acts_busy]⟩

/-- Settles O32: the lengths from those of a slot, of RESET and of MATCH_ADDRESS; each CRC command is one released tick and
assignments (`offer_endsWithFirstTick`). -/
theorem defaultDurations : Obligations.DefaultDurations := by
  refine ⟨fun w i => ?lengths, fun s d line hb i hi => ?oneTick⟩
  case lengths =>
    have hrslot : defaultConfig.tRslot = 70 := rfl
    rw [resetTicks_default, slotTicks_default, matchTicks_default, spBase_default, searchBase_default,
      searchBitTicks_default, hrslot]
    exact ⟨rfl, rfl, rfl, rfl, rfl, rfl, rfl, rfl, by omega, by omega, by omega⟩
  case oneTick =>
    simp only [List.mem_cons, List.not_mem_nil, or_false] at hi
    obtain rfl | rfl | rfl | rfl := hi
    · exact offer_endsWithFirstTick 0x9 d [.crcClear] line hb
    · exact offer_endsWithFirstTick 0xA d [.crcFeed] line hb
    · exact offer_endsWithFirstTick 0xB d [.crcCheck] line hb
    · exact offer_endsWithFirstTick 0xC d [.crcAddr, .crcCheck] line hb

end Sys2Proof.Machine
